-- ==== Sys2Proof/Word.lean ====
section
/-! DEFINITION. The word types: bytes on the wire, 16-bit pixel words and window coordinates (00_scope.md R10). -/

namespace Sys2Proof

/-- A byte: 8 bits, unsigned (R10). -/
abbrev Byte := BitVec 8

/-- A packed pixel or a window coordinate on the wire: 16 bits (R10). -/
abbrev Word16 := BitVec 16

end Sys2Proof
end

