-- ==== Sys2Proof/Config.lean ====
section
/-! DEFINITION. What an implementation fixes (00_scope.md R5 to R7) and the free values: what the spec leaves to the
outside world or does not state. A free value is an opaque constant; no proof can see which value it is. -/

namespace Sys2Proof

/-- The rotation applied by the encoder (R5, R131, R132). -/
inductive Rot where
  | cw90
  | ccw90
  deriving DecidableEq, Repr

/-- The configuration record (R5, R25): fixed at construction, read by every operation, written by none. -/
structure Config where
  width : Nat
  height : Nat
  rot : Rot
  madctlByte : Byte
  colmodByte : Byte
  resetSettleMs : Nat
  sleepOutMs : Nat
  chunkBytes : Nat
  spiMode : Nat
  spiHzMax : Nat
  spiHz : Nat
  spiBus : Nat
  spiDevice : Nat
  pinReset : Nat
  pinDc : Nat
  pinBacklight : Nat
  pinCs : Nat
  buttonPins : List Nat
  debounceMs : Nat
  deriving DecidableEq, Repr

/-- What the SPI collaborator does with one `writeBytes` call (40_bus_transport.md R103, 70_reset_and_hazards.md R229):
it completes; it fails after that many bytes of the transfer reached the wire; or it never returns. -/
inductive TransferAnswer where
  | complete
  | fail (delivered : Nat)
  | never
  deriving DecidableEq, Repr, Inhabited

/-- OPEN parameter `MADCTL_BYTE` (R5, R77): no default. -/
opaque Config.openMadctlByte : Byte
/-- OPEN parameter `COLMOD_BYTE` (R5, R78): no default. -/
opaque Config.openColmodByte : Byte
/-- OPEN parameter `SPI_HZ` (R5), before it is brought into its range. -/
opaque Config.openSpiHz : Nat
/-- OPEN parameter `SPI_BUS` (R5). -/
opaque Config.openSpiBus : Nat
/-- OPEN parameter `SPI_DEVICE` (R5). -/
opaque Config.openSpiDevice : Nat
/-- OPEN parameter `PIN_RESET` (R5). -/
opaque Config.openPinReset : Nat
/-- OPEN parameter `PIN_DC` (R5). -/
opaque Config.openPinDc : Nat
/-- OPEN parameter `PIN_BACKLIGHT` (R5). -/
opaque Config.openPinBacklight : Nat
/-- OPEN parameter `PIN_CS` (R5). -/
opaque Config.openPinCs : Nat
/-- OPEN parameter: the button pins (R5, R194). -/
opaque Config.openButtonPins : List Nat

/-- FREE VALUE. What the n-th `writeBytes` call of a run does (R103, R182, R229). -/
opaque Config.freeTransfer : Nat → TransferAnswer
/-- FREE VALUE. Whether the n-th `open`, `setClockHz` or `setMode` call of a run succeeds (R39, R182). -/
opaque Config.freeCall : Nat → Bool
/-- FREE VALUE. How long, in microseconds, passes before the n-th wire event beyond what `WAIT` asks for (R226). -/
opaque Config.freeGap : Nat → Nat
/-- FREE VALUE. Whether the n-th `onFallingEdge` registration succeeds (60_exceptions.md R195, U11). -/
opaque Config.freeRegistration : Nat → Bool
/-- FREE VALUE. The colour `{r, g, b}` of a canvas position that nothing has written, by its index (10_state.md R34, U13). -/
opaque Config.freeColour : Nat → BitVec 24

/-- The configuration at the defaults of R5, the OPEN parameters free. `SPI_HZ` lies in 1 to 40 000 000. -/
def Config.default : Config where
  width := 240
  height := 240
  rot := .cw90
  madctlByte := Config.openMadctlByte
  colmodByte := Config.openColmodByte
  resetSettleMs := 10
  sleepOutMs := 120
  chunkBytes := 4096
  spiMode := 0
  spiHzMax := 40000000
  spiHz := 1 + Config.openSpiHz % 40000000
  spiBus := Config.openSpiBus
  spiDevice := Config.openSpiDevice
  pinReset := Config.openPinReset
  pinDc := Config.openPinDc
  pinBacklight := Config.openPinBacklight
  pinCs := Config.openPinCs
  buttonPins := Config.openButtonPins
  debounceMs := 300

/-- The numeric constraints of R5 and the square geometry of R6. A premise of claims; `SETUP` itself tests only the
geometry (R145). -/
abbrev Config.InRange (c : Config) : Prop :=
  1 ≤ c.width ∧ c.width ≤ 65536 ∧ c.height = c.width ∧ 1 ≤ c.chunkBytes ∧
  0 < c.resetSettleMs ∧ 0 < c.sleepOutMs ∧ c.spiMode = 0 ∧ 0 < c.spiHz ∧ c.spiHz ≤ c.spiHzMax ∧ 0 < c.debounceMs

/-- "distinct" (R5): the identifiers of the logical signals. No operation of the block depends on it. -/
abbrev Config.PinsDistinct (c : Config) : Prop :=
  (c.pinReset :: c.pinDc :: c.pinBacklight :: c.pinCs :: c.buttonPins).Nodup

/-- `NPIX` (R7). -/
def Config.npix (c : Config) : Nat := c.width * c.height

/-- `FRAME_BYTES` (R7). -/
def Config.frameBytes (c : Config) : Nat := 2 * c.npix

/-- `NCHUNK(n)`, the number of transfers of a payload of `n` bytes (R7): the quotient rounded up. -/
def Config.nchunk (c : Config) (n : Nat) : Nat := (n + c.chunkBytes - 1) / c.chunkBytes

end Sys2Proof
end

