-- ==== Sys2Proof/Syntax.lean ====
section
/-! DEFINITION. The instructions: one constructor for each row of spec/opcode_table.json (30_encoding.md R70, R73, R84, R87).
The WIRE rows are what the panel does with one frame, the HOSTOP rows are the host's operations, PIXEL and WINDOW are the two
data formats as they reach the panel. -/

namespace Sys2Proof

/-- An RGB888 triple (20_memory.md R53). -/
structure Colour where
  r : Byte
  g : Byte
  b : Byte
  deriving DecidableEq, Repr

/-- The instructions, in the order of the opcode table. -/
inductive Instr where
  /-- WIRE 0x11 with the frame's data bytes (R164). -/
  | sleepOut (data : List Byte)
  /-- WIRE 0x29 (R173). -/
  | displayOn (data : List Byte)
  /-- WIRE 0x2A (R168). -/
  | colAddrSet (data : List Byte)
  /-- WIRE 0x2B (R169). -/
  | rowAddrSet (data : List Byte)
  /-- WIRE 0x2C (R170, R171). -/
  | memWrite (data : List Byte)
  /-- WIRE 0x36 (R166). -/
  | memAccessCtl (data : List Byte)
  /-- WIRE 0x3A (R167). -/
  | pixelFormat (data : List Byte)
  /-- HOSTOP 0x0 (R145). -/
  | setup
  /-- HOSTOP 0x1 (R110). -/
  | hardReset
  /-- HOSTOP 0x2 (R112). -/
  | initSequence
  /-- HOSTOP 0x3 (R114). -/
  | setAddressWindow (x0 y0 x1 y1 : Int)
  /-- HOSTOP 0x4 (R117). -/
  | beginRamWrite
  /-- HOSTOP 0x5 (R100). -/
  | writeCommandByte (b : Byte)
  /-- HOSTOP 0x6 (R101). -/
  | writeDataBytes (bs : List Byte)
  /-- HOSTOP 0x7 (R130). -/
  | encode
  /-- HOSTOP 0x8 (R146). -/
  | present
  /-- HOSTOP 0x9 (R149). -/
  | clear (c : Colour)
  /-- HOSTOP 0xA (R150). -/
  | draw (x y : Int) (c : Colour)
  /-- HOSTOP 0xB, reserved (R85). -/
  | reserved0xB
  /-- HOSTOP 0xC to 0xF, reserved, with the select's two low bits (R85). -/
  | reserved0xC0xF (low : BitVec 2)
  /-- PIXEL: one 16-bit word as two data bytes (R74, R75). -/
  | pixel (v : Word16)
  /-- WINDOW: a start and an end coordinate as four data bytes (R76). -/
  | window (s e : Word16)
  deriving DecidableEq, Repr

/-- The four formats (R70). -/
inductive Format where
  | wire
  | hostop
  | pixel
  | window
  deriving DecidableEq, Repr

/-- The format of an instruction's row. -/
def Instr.format : Instr → Format
  | .sleepOut _ | .displayOn _ | .colAddrSet _ | .rowAddrSet _ | .memWrite _ | .memAccessCtl _ | .pixelFormat _ => .wire
  | .setup | .hardReset | .initSequence | .setAddressWindow _ _ _ _ | .beginRamWrite | .writeCommandByte _
  | .writeDataBytes _ | .encode | .present | .clear _ | .draw _ _ _ | .reserved0xB | .reserved0xC0xF _ => .hostop
  | .pixel _ => .pixel
  | .window _ _ => .window

end Sys2Proof
end

