-- ==== Sys2Proof/WellFormed.lean ====
section
/-! DEFINITION. Well-formed instructions: what can be presented at the block's ports (10_state.md R41). -/

namespace Sys2Proof

/-- An integer operand the 16-bit two's-complement port can carry: −32768 to 32767 (R41). -/
def portInt (v : Int) : Bool := decide (-32768 ≤ v ∧ v ≤ 32767)

/-- An instruction is well formed when every integer operand fits its port (R41). Every other operand is a byte, a colour,
a 16-bit word or a finite byte sequence, and any of these can be presented. -/
def Instr.wellFormed : Instr → Bool
  | .setAddressWindow x0 y0 x1 y1 => portInt x0 && portInt y0 && portInt x1 && portInt y1
  | .draw x y _ => portInt x && portInt y
  | .sleepOut _ | .displayOn _ | .colAddrSet _ | .rowAddrSet _ | .memWrite _ | .memAccessCtl _ | .pixelFormat _
  | .setup | .hardReset | .initSequence | .beginRamWrite | .writeCommandByte _ | .writeDataBytes _ | .encode | .present
  | .clear _ | .reserved0xB | .reserved0xC0xF _ | .pixel _ | .window _ _ => true

end Sys2Proof
end

