-- ==== Sys2Proof/Decode.lean ====
section
/-! DEFINITION. Encodings (30_encoding.md): the four formats as they are presented, the decoder, total and rejecting by
name, the encoder, and the decoder over the numbers of spec/opcode_table.json. -/

namespace Sys2Proof

/-- The host-side ports (10_state.md R37, 30_encoding.md R84): the fields are parallel, there is no packed word. -/
structure HostPort where
  opSel : BitVec 4
  a0 : BitVec 16
  a1 : BitVec 16
  a2 : BitVec 16
  a3 : BitVec 16
  cmdByte : Byte
  colour : BitVec 24
  payload : List Byte
  deriving DecidableEq, Repr

/-- What is presented to the machine, in one of the four formats (R70). A `wire` request is one frame, its command byte
first (R71); byte lists are earliest first (00_scope.md R11). -/
inductive Request where
  | hostop (p : HostPort)
  | wire (bytes : List Byte)
  | pixel (bytes : List Byte)
  | window (bytes : List Byte)
  deriving DecidableEq, Repr

/-- Why bytes are no instruction. -/
inductive DecodeError where
  /-- A wire frame with no command byte. -/
  | emptyFrame
  /-- A wire frame whose command byte is not one of the seven opcodes (R73, R174). -/
  | foreignOpcode (c : Byte) (data : List Byte)
  /-- A PIXEL that is not two bytes. -/
  | pixelLength (n : Nat)
  /-- A WINDOW that is not four bytes. -/
  | windowLength (n : Nat)
  deriving DecidableEq, Repr

/-- The high byte `v[15:8]` (R10, R11). -/
def hiByte (v : Word16) : Byte := v.extractLsb' 8 8

/-- The low byte `v[7:0]`. -/
def loByte (v : Word16) : Byte := v.extractLsb' 0 8

/-- A 16-bit value big-endian, high byte then low byte (R11, R51). -/
def bytes16 (v : Word16) : List Byte := [hiByte v, loByte v]

/-- `{hi, lo}` (R10, 44_wire_commands.md R172). -/
def word16 (hi lo : Byte) : Word16 := hi ++ lo

/-- The four `WINDOW` data bytes, start then end, each big-endian (R52, R76). -/
def windowBytes (s e : Word16) : List Byte := bytes16 s ++ bytes16 e

/-- The triple carried by `colour[23:0]` as `{r, g, b}` (R37). -/
def Colour.ofBits (v : BitVec 24) : Colour := ⟨v.extractLsb' 16 8, v.extractLsb' 8 8, v.extractLsb' 0 8⟩

/-- A triple on the port `colour[23:0]` (R37). -/
def Colour.toBits (c : Colour) : BitVec 24 := c.r ++ c.g ++ c.b

/-- The operation the select and the latches name (R84). Total: 0xB to 0xF are the reserved rows (R85). -/
def decodeHostop (p : HostPort) : Instr :=
  match p.opSel.toNat with
  | 0 => .setup
  | 1 => .hardReset
  | 2 => .initSequence
  | 3 => .setAddressWindow p.a0.toInt p.a1.toInt p.a2.toInt p.a3.toInt
  | 4 => .beginRamWrite
  | 5 => .writeCommandByte p.cmdByte
  | 6 => .writeDataBytes p.payload
  | 7 => .encode
  | 8 => .present
  | 9 => .clear (Colour.ofBits p.colour)
  | 10 => .draw p.a0.toInt p.a1.toInt (Colour.ofBits p.colour)
  | 11 => .reserved0xB
  | _ => .reserved0xC0xF (p.opSel.extractLsb' 0 2)

/-- The frame a command byte starts (R71, R73): all eight bits are opcode. -/
def decodeFrame (c : Byte) (data : List Byte) : Except DecodeError Instr :=
  match c.toNat with
  | 0x11 => .ok (.sleepOut data)
  | 0x29 => .ok (.displayOn data)
  | 0x2A => .ok (.colAddrSet data)
  | 0x2B => .ok (.rowAddrSet data)
  | 0x2C => .ok (.memWrite data)
  | 0x36 => .ok (.memAccessCtl data)
  | 0x3A => .ok (.pixelFormat data)
  | _ => .error (.foreignOpcode c data)

/-- The decoder. -/
def decode : Request → Except DecodeError Instr
  | .hostop p => .ok (decodeHostop p)
  | .wire [] => .error .emptyFrame
  | .wire (c :: data) => decodeFrame c data
  | .pixel [hi, lo] => .ok (.pixel (word16 hi lo))
  | .pixel bs => .error (.pixelLength bs.length)
  | .window [s1, s0, e1, e0] => .ok (.window (word16 s1 s0) (word16 e1 e0))
  | .window bs => .error (.windowLength bs.length)

/-- The ports with a select and every latch zero. -/
def HostPort.select (op : BitVec 4) : HostPort := ⟨op, 0, 0, 0, 0, 0, 0, []⟩

/-- The encoder: an instruction as it is presented, from the tables of R73, R76, R84. Latches an operation does not read
are zero. -/
def encode : Instr → Request
  | .sleepOut d => .wire (0x11#8 :: d)
  | .displayOn d => .wire (0x29#8 :: d)
  | .colAddrSet d => .wire (0x2A#8 :: d)
  | .rowAddrSet d => .wire (0x2B#8 :: d)
  | .memWrite d => .wire (0x2C#8 :: d)
  | .memAccessCtl d => .wire (0x36#8 :: d)
  | .pixelFormat d => .wire (0x3A#8 :: d)
  | .setup => .hostop (.select 0x0)
  | .hardReset => .hostop (.select 0x1)
  | .initSequence => .hostop (.select 0x2)
  | .setAddressWindow x0 y0 x1 y1 =>
    .hostop { HostPort.select 0x3 with
      a0 := BitVec.ofInt 16 x0, a1 := BitVec.ofInt 16 y0, a2 := BitVec.ofInt 16 x1, a3 := BitVec.ofInt 16 y1 }
  | .beginRamWrite => .hostop (.select 0x4)
  | .writeCommandByte b => .hostop { HostPort.select 0x5 with cmdByte := b }
  | .writeDataBytes bs => .hostop { HostPort.select 0x6 with payload := bs }
  | .encode => .hostop (.select 0x7)
  | .present => .hostop (.select 0x8)
  | .clear c => .hostop { HostPort.select 0x9 with colour := c.toBits }
  | .draw x y c =>
    .hostop { HostPort.select 0xA with a0 := BitVec.ofInt 16 x, a1 := BitVec.ofInt 16 y, colour := c.toBits }
  | .reserved0xB => .hostop (.select 0xB)
  | .reserved0xC0xF low => .hostop (.select (0b11#2 ++ low))
  | .pixel v => .pixel (bytes16 v)
  | .window s e => .window (windowBytes s e)

/-- How many data bytes a frame of this opcode carries (R72); memory-write is open-ended. -/
def frameDataCount (c : Byte) : Nat :=
  match c.toNat with
  | 0x2A | 0x2B => 4
  | 0x36 | 0x3A => 1
  | _ => 0

/-- What the table's number `w` of `nbits` bits presents. The table's 8-bit rows are the command byte of a frame, whose
data bytes are then zero, and below 0x10 the select of a host operation (no wire opcode is that small), whose latches are
then zero; its 16-bit row is PIXEL, its 32-bit row WINDOW, most significant byte first on the wire. -/
def requestOfTableWord (nbits w : Nat) : Request :=
  if nbits ≤ 8 then
    if w % 256 < 16 then .hostop (.select (BitVec.ofNat 4 w))
    else .wire (BitVec.ofNat 8 w :: List.replicate (frameDataCount (BitVec.ofNat 8 w)) 0)
  else if nbits ≤ 16 then .pixel (bytes16 (BitVec.ofNat 16 w))
  else .window (windowBytes (BitVec.ofNat 16 (w / 65536)) (BitVec.ofNat 16 w))

/-- The instruction the decoder reads from the table's number. -/
def decodeTableWord (nbits w : Nat) : Option Instr :=
  match decode (requestOfTableWord nbits w) with
  | .ok i => some i
  | .error _ => none

end Sys2Proof
end

