-- ==== Sys2Proof/Machine/State.lean ====
section
/-! DEFINITION. The state of the machine as plain data: everything INVENTORY.md lists under State, and its values at
power-on (10_state.md R34, 44_wire_commands.md R161). -/

namespace Sys2Proof.Machine

/-- The signals the block drives (10_state.md R23, R30). -/
inductive Signal where
  | reset
  | dc
  | backlight
  deriving DecidableEq, Repr

/-- The level of a signal: 0 or 1 (R30). -/
inductive Level where
  | low
  | high
  deriving DecidableEq, Repr

/-- What a pin holds (R23). -/
inductive PinState where
  | unconfigured
  | outUndriven
  | driven (lvl : Level)
  deriving DecidableEq, Repr

/-- The pin state `pins` (R23). -/
structure Pins where
  reset : PinState
  dc : PinState
  backlight : PinState
  deriving DecidableEq, Repr

/-- A wire event (R30): one call on a collaborator, or one delay. -/
inductive Event where
  | pinOut (sig : Signal)
  | spiOpen (bus device : Nat)
  | spiClk (hz : Nat)
  | spiMode (mode : Nat)
  | pin (sig : Signal) (lvl : Level)
  | xfer (bytes : List Byte)
  | wait (ms : Nat)
  deriving DecidableEq, Repr

/-- The error classes (60_exceptions.md R180). `resource` belongs to the Input Watcher and never stands in `err` (R183). -/
inductive ErrClass where
  | none
  | configuration
  | transport
  | resource
  deriving DecidableEq, Repr

/-- `shadow.power` (R26). -/
inductive Power where
  | unknown
  | asleep
  | awake
  deriving DecidableEq, Repr

/-- An addressing window as the host's operands give it (R26, R41). -/
structure Window where
  x0 : Int
  y0 : Int
  x1 : Int
  y1 : Int
  deriving DecidableEq, Repr

/-- The shadow (R26). `none` is UNKNOWN. -/
structure Shadow where
  power : Power
  madctl : Option Byte
  colmod : Option Byte
  displayOn : Option Bool
  window : Option Window
  ramwr : Bool
  deriving DecidableEq, Repr

/-- What an operation records when an event has been emitted, or when its transfer failed (R26, R27, R28, R43). -/
inductive Edit where
  | power (p : Power)
  | madctl (v : Option Byte)
  | colmod (v : Option Byte)
  | displayOn (v : Option Bool)
  | window (v : Option Window)
  | ramwr (v : Bool)
  | busOpen
  deriving DecidableEq, Repr

/-- One entry of an operation's event list, with what is recorded on success and on failure. -/
structure Item where
  event : Event
  onOk : List Edit
  onFail : List Edit
  deriving DecidableEq, Repr

/-- The running operation with its latched operands (R41) and its event list, fixed when it starts (R21). -/
structure Running where
  instr : Instr
  items : List Item
  deriving DecidableEq, Repr

/-- A sparse memory: position index and content, indices strictly rising; an unlisted index is unwritten. -/
abbrev Memory (α : Type) := List (Nat × α)

/-- Power mode of the receiver while it is not UNDEFINED (44_wire_commands.md R161). -/
inductive PanelMode where
  | sleep
  | awake
  deriving DecidableEq, Repr

/-- `p.ptr` (R161). -/
inductive Ptr where
  | none
  | pos (x y : Nat)
  | pastEnd
  deriving DecidableEq, Repr

/-- The receiver's fields while something is known of it (R161). `none` is UNSET or NONE; `args` holds the data bytes of
the address-set frame so far. -/
structure PanelRegs where
  mode : PanelMode
  tOk : Nat
  madctl : Option Byte
  colmod : Option Byte
  dispOn : Option Bool
  xs : Option Word16
  xe : Option Word16
  ys : Option Word16
  ye : Option Word16
  cmd : Option Byte
  idx : Nat
  args : List Byte
  ptr : Ptr
  latch : Option Byte
  gram : Memory Word16
  deriving DecidableEq, Repr

/-- The panel. `regs = none` is `p.mode = UNDEFINED`: "nothing is known of any other field" (R161). `lowSince` is since when
RESET has been low (R163). -/
structure Panel where
  lowSince : Option Nat
  regs : Option PanelRegs
  deriving DecidableEq, Repr

/-- Answers of the outside world: those already given, earliest first, and how many have been taken. Past the given ones the
answers are free values of Config. -/
structure Oracle (α : Type) where
  given : List α
  taken : Nat
  deriving DecidableEq, Repr

/-- The outside world (60_exceptions.md R182, 70_reset_and_hazards.md R226, R229, 60_exceptions.md R195). -/
structure World where
  transfers : Oracle TransferAnswer
  calls : Oracle Bool
  gaps : Oracle Nat
  registrations : Oracle Bool
  deriving DecidableEq, Repr

/-- The typed result of a registration (60_exceptions.md R191, R195). `unavailable` is ResourceUnavailableError (R183,
70_reset_and_hazards.md R227). -/
inductive BindResult where
  | bound
  | unavailable
  deriving DecidableEq, Repr

/-- The pull mode of an input (10_state.md R38, 60_exceptions.md R194): up for a button wired active-low, down for the
joystick centre, wired active-high. -/
inductive PullMode where
  | pullUp
  | pullDown
  deriving DecidableEq, Repr

/-- A call of the Input Watcher on the GPIO collaborator (10_state.md R38, 60_exceptions.md R191, R194). -/
inductive GpioCall where
  | configureInput (pin : Nat) (pull : PullMode)
  | clearEdgeDetection (pin : Nat)
  | onFallingEdge (pin : Nat) (callback : List HostPort) (debounceMs : Nat)
  deriving DecidableEq, Repr

/-- The Input Watcher (10_state.md R29): the callbacks by pin, each the calls the callback makes at the host's ports (R193). -/
structure Watcher where
  bindings : Memory (List HostPort)
  lastResult : Option BindResult
  gpio : List GpioCall
  deriving DecidableEq, Repr

/-- A move of the outside world (00_scope.md R9, 60_exceptions.md R204). The host reaches the block through its ports
alone: no move drives a pin, sends a byte by another path, reads the panel or changes the configuration. A button is named by
its place in the configuration's list of button pins (R29, R194). -/
inductive Move where
  /-- A blocking call by the owning thread: it waits while an operation runs, then runs to its end. -/
  | call (p : HostPort)
  /-- A call by another thread or a callback: it does not look at `busy` and does not wait for the end (R63, R193). -/
  | async (p : HostPort)
  /-- The sequencer makes one step (R21). -/
  | tick
  /-- The Input Watcher configures a button's line (R194). -/
  | configureInput (button : Nat) (pull : PullMode)
  /-- The Input Watcher registers a callback without clearing first (R191, 70_reset_and_hazards.md R227). -/
  | register (button : Nat) (callback : List HostPort)
  /-- The Input Watcher rebinds a button (R191). -/
  | rebind (button : Nat) (callback : List HostPort)
  /-- The Input Watcher clears a button's registration (R191). -/
  | unbind (button : Nat)
  /-- A falling edge on a button's pin that the platform's debounce let through (R190, R192). -/
  | edge (button : Nat)
  deriving DecidableEq, Repr

/-- The state. `presented` holds rows of the opcode table put to the machine one at a time from outside a run, a frame for the
reference receiver alone among them (44_wire_commands.md R160): no move fills it. -/
structure State where
  cfg : Config
  busy : Bool
  op : Option Running
  seq : Nat
  err : ErrClass
  race : Bool
  busOpen : Bool
  pins : Pins
  canvas : Memory Colour
  shadow : Shadow
  trace : List Event
  encOut : List Byte
  panel : Panel
  now : Nat
  world : World
  watcher : Watcher
  presented : List Request
  inputs : List Move
  deriving DecidableEq, Repr

/-- Reasons the machine stops with a fault. -/
inductive Fault where
  /-- Raised by the step when what is presented is in none of the four formats (R70): an empty frame, a PIXEL that is not two
  bytes, a WINDOW that is not four. Safe: no instruction is lost. -/
  | malformedRequest (e : DecodeError)
  deriving DecidableEq, Repr

/-- Reasons the machine gives a request no meaning. -/
inductive Refusal where
  /-- An instruction without a meaning; no arm of exec answers it. Safe. -/
  | notModelled (mnemonic : String)
  /-- `race` is set: "the model says nothing further about that run" (20_memory.md R63). Every operation and the step. Safe. -/
  | raced
  /-- A bus operation before SETUP: "it is refused" (70_reset_and_hazards.md R211). Safe. -/
  | busNotOpen
  /-- A second SETUP "is given no meaning" (43_display_session.md R145). Safe. -/
  | alreadySetUp
  /-- HARD_RESET while the RESET pin is UNCONFIGURED (41_panel_controller.md R110, R211). Safe. -/
  | resetPinUnconfigured
  deriving DecidableEq, Repr

/-- The shadow that knows nothing (R34). -/
def Shadow.unknown : Shadow := ⟨.unknown, none, none, none, none, false⟩

/-- The receiver in UNDEFINED with RESET not low (R161). -/
def Panel.undefined : Panel := ⟨none, none⟩

/-- No answer given yet and none taken. -/
def World.silent : World := ⟨⟨[], 0⟩, ⟨[], 0⟩, ⟨[], 0⟩, ⟨[], 0⟩⟩

/-- The machine at power-on (R34). `encOut`, `now`, `world`, `presented`, `inputs` and the watcher's result and call list are the model's
own fields; their values here are DESIGN CHOICES of the log. -/
def State.reset : State where
  cfg := Config.default
  busy := false
  op := none
  seq := 0
  err := .none
  race := false
  busOpen := false
  pins := ⟨.unconfigured, .unconfigured, .unconfigured⟩
  canvas := []
  shadow := Shadow.unknown
  trace := []
  encOut := []
  panel := Panel.undefined
  now := 0
  world := World.silent
  watcher := ⟨[], none, []⟩
  presented := []
  inputs := []

end Sys2Proof.Machine
end

