-- ==== Sys2Proof/Machine/Flags.lean ====
section
/-! DEFINITION. The status flags (10_state.md R21, R22): the error codes, how an operation ends, the race flag, and the
predicate READY over the shadow (R28). -/

namespace Sys2Proof.Machine

/-- The two bits of `err` (60_exceptions.md R180). -/
def errCode : ErrClass → BitVec 2
  | .none => 0
  | .configuration => 1
  | .transport => 2
  | .resource => 3

/-- An operation ends: `busy` and `seq` go to 0, no operation is named, `err` tells its result (R21, R22, R185). -/
def endOp (e : ErrClass) (s : State) : State := { s with busy := false, op := none, seq := 0, err := e }

/-- An operation starts: its operands and its event list are latched (R21, R41). -/
def startOp (i : Instr) (items : List Item) (s : State) : State :=
  { s with busy := true, op := some ⟨i, items⟩, seq := 0 }

/-- A second operation or a canvas write came while `busy` was 1 (20_memory.md R63). -/
def setRace (s : State) : State := { s with race := true }

/-- The predicate READY (R28). -/
def ready (s : State) : Bool :=
  s.busOpen && decide (s.pins.backlight = .driven .high) && decide (s.shadow.power = .awake) &&
  decide (s.shadow.madctl = some s.cfg.madctlByte) && decide (s.shadow.colmod = some s.cfg.colmodByte) &&
  decide (s.shadow.displayOn = some true)

end Sys2Proof.Machine
end

