-- ==== Sys2Proof/Machine/Memory.lean ====
section
/-! DEFINITION. The two pixel memories (20_memory.md R50) as sparse lists: reading, writing one position, filling, and the
canonical form. -/

namespace Sys2Proof.Machine

/-- The canonical form: indices strictly rising. Nothing is listed for an unwritten position, since an entry always holds a
written content, so equal memories are equal lists. -/
abbrev Memory.wf {α : Type} (m : Memory α) : Prop := (m.map Prod.fst).Pairwise (· < ·)

/-- Every listed index is below `n`. -/
abbrev Memory.below {α : Type} (n : Nat) (m : Memory α) : Prop := ∀ e ∈ m, e.1 < n

/-- The content of a position, none if nothing has written it. -/
def Memory.get {α : Type} (m : Memory α) (i : Nat) : Option α :=
  match m with
  | [] => none
  | (j, v) :: rest => if i = j then some v else Memory.get rest i

/-- Write one position. -/
def Memory.set {α : Type} (i : Nat) (v : α) (m : Memory α) : Memory α :=
  match m with
  | [] => [(i, v)]
  | (j, w) :: rest =>
    if i < j then (i, v) :: (j, w) :: rest
    else if i = j then (i, v) :: rest
    else (j, w) :: Memory.set i v rest

/-- Remove one position. -/
def Memory.erase {α : Type} (i : Nat) (m : Memory α) : Memory α := m.filter (fun e => decide (e.1 ≠ i))

/-- Every position below `n` written with one content. -/
def Memory.fill {α : Type} (n : Nat) (v : α) : Memory α := (List.range n).map (fun i => (i, v))

/-- The index of the position `(x, y)` in row-major order: `y × W + x` (00_scope.md R12). -/
def posIndex (cfg : Config) (x y : Nat) : Nat := y * cfg.width + x

end Sys2Proof.Machine
end

