-- ==== Sys2Proof/Machine/Operands.lean ====
section
/-! DEFINITION. The operand forms: window bounds and fields (R76, R79, R115), canvas positions (R150), the chunks of a
payload (R101), the pixel word and its inverse (R74, R134, R89), the rotation (R131, R132) and the pixel stream (R130). -/

namespace Sys2Proof.Machine

/-- The bounds of `SET_ADDRESS_WINDOW` (41_panel_controller.md R115). -/
def windowInBounds (cfg : Config) (w : Window) : Bool :=
  decide (0 ≤ w.x0 ∧ w.x0 ≤ w.x1 ∧ w.x1 < cfg.width ∧ 0 ≤ w.y0 ∧ w.y0 ≤ w.y1 ∧ w.y1 < cfg.height)

/-- A position lies inside the canvas (43_display_session.md R150). -/
def onCanvas (cfg : Config) (x y : Int) : Bool :=
  decide (0 ≤ x ∧ x < cfg.width ∧ 0 ≤ y ∧ y < cfg.height)

/-- A checked coordinate as its 16-bit field (30_encoding.md R79). -/
def coordField (v : Int) : Word16 := BitVec.ofNat 16 v.toNat

/-- The four data bytes of the column command: the x pair (R79, R114). -/
def columnBytes (w : Window) : List Byte := windowBytes (coordField w.x0) (coordField w.x1)

/-- The four data bytes of the row command: the y pair (R79, R114). -/
def rowBytes (w : Window) : List Byte := windowBytes (coordField w.y0) (coordField w.y1)

/-- The full frame `(0, 0, W-1, H-1)` (R116, R146). -/
def fullWindow (cfg : Config) : Window := ⟨0, 0, (cfg.width : Int) - 1, (cfg.height : Int) - 1⟩

/-- Cut a list into pieces of `c + 1` elements, the last one shorter if need be; `fuel` bounds the number of pieces. -/
def piecesOf (c : Nat) (fuel : Nat) (bs : List Byte) : List (List Byte) :=
  match fuel, bs with
  | 0, _ => []
  | _, [] => []
  | fuel + 1, b :: rest => (b :: rest.take c) :: piecesOf c fuel (rest.drop c)

/-- The transfers of a payload (40_bus_transport.md R101): contiguous groups of `CHUNK_BYTES` bytes, none for an empty
payload (R105). -/
def chunks (cfg : Config) (bs : List Byte) : List (List Byte) := piecesOf (cfg.chunkBytes - 1) bs.length bs

/-- `PACK565` (42_pixel_encoder.md R134). -/
def pack565 (c : Colour) : Word16 :=
  ((c.r &&& 0xF8#8).setWidth 16 <<< 8) ||| ((c.g &&& 0xFC#8).setWidth 16 <<< 3) ||| (c.b >>> 3).setWidth 16

/-- A pixel word back to channels (30_encoding.md R89). -/
def unpack565 (v : Word16) : Colour :=
  ⟨(v >>> 8).setWidth 8 &&& 0xF8#8, (v >>> 3).setWidth 8 &&& 0xFC#8, (v <<< 3).setWidth 8 &&& 0xF8#8⟩

/-- `ROTSRC`: the source position that destination `(x, y)` reads (R131, R132). -/
def rotSrc (rot : Rot) (w h x y : Nat) : Nat × Nat :=
  match rot with
  | .cw90 => (y, h - 1 - x)
  | .ccw90 => (w - 1 - y, x)

/-- Where a source position lands (R140). -/
def rotDst (rot : Rot) (w h sx sy : Nat) : Nat × Nat :=
  match rot with
  | .cw90 => (h - 1 - sy, sx)
  | .ccw90 => (sy, w - 1 - sx)

/-- `canvas[x, y]`; a position nothing has written is a free value (10_state.md R34). -/
def canvasAt (cfg : Config) (canvas : Memory Colour) (x y : Nat) : Colour :=
  (canvas.get (posIndex cfg x y)).getD (Colour.ofBits (Config.freeColour (posIndex cfg x y)))

/-- The pixel word of destination `(x, y)` (R130, R136). -/
def encodedPixel (cfg : Config) (canvas : Memory Colour) (x y : Nat) : Word16 :=
  pack565 (canvasAt cfg canvas (rotSrc cfg.rot cfg.width cfg.height x y).1 (rotSrc cfg.rot cfg.width cfg.height x y).2)

/-- The pixel byte stream: destination rows top first, columns left first, each word high byte first (R130, R135). -/
def encodeCanvas (cfg : Config) (canvas : Memory Colour) : List Byte :=
  (List.range cfg.height).flatMap fun y =>
    (List.range cfg.width).flatMap fun x => bytes16 (encodedPixel cfg canvas x y)

end Sys2Proof.Machine
end

