-- ==== Sys2Proof/Machine/Panel.lean ====
section
/-! DEFINITION. The reference receiver (44_wire_commands.md R160 to R174). A function that answers none says
`p.mode <- UNDEFINED`: from there nothing is known until a reset pulse. Times are microseconds. -/

namespace Sys2Proof.Machine

/-- A number of milliseconds in the unit of `now`. -/
def micros (ms : Nat) : Nat := 1000 * ms

/-- The receiver's fields after a full reset pulse whose rising edge was at `t` (R163). R163 does not name
`p.idx` and names no kept data bytes: that they are 0 and empty is the model's choice (log 25). With `p.cmd` at NONE no rule
reads either. -/
def resetRegs (cfg : Config) (t : Nat) : PanelRegs where
  mode := .sleep
  tOk := t + micros cfg.resetSettleMs
  madctl := none
  colmod := none
  dispOn := none
  xs := none
  xe := none
  ys := none
  ye := none
  cmd := none
  idx := 0
  args := []
  ptr := .none
  latch := none
  gram := []

/-- A frame that ends before its data bytes have all come leaves the field it was writing UNSET (R162). -/
def endFrame (r : PanelRegs) : PanelRegs :=
  match r.cmd.map BitVec.toNat with
  | some 0x36 => if r.idx < 1 then { r with madctl := none } else r
  | some 0x3A => if r.idx < 1 then { r with colmod := none } else r
  | some 0x2A => if r.idx < 4 then { r with xs := none, xe := none } else r
  | some 0x2B => if r.idx < 4 then { r with ys := none, ye := none } else r
  | _ => r

/-- A command byte starts a frame (R162). -/
def startFrame (c : Byte) (r : PanelRegs) : PanelRegs :=
  { endFrame r with cmd := some c, idx := 0, args := [], latch := none }

/-- SLEEP_OUT (R164). -/
def takeSleepOut (cfg : Config) (now : Nat) (r : PanelRegs) : Option PanelRegs :=
  some { r with mode := .awake, tOk := now + micros cfg.sleepOutMs }

/-- DISPLAY_ON (R173). -/
def takeDisplayOn (r : PanelRegs) : Option PanelRegs :=
  if r.mode = .awake then some { r with dispOn := some true } else none

/-- The command byte of COL_ADDR_SET (R168). -/
def takeColAddrSet (r : PanelRegs) : Option PanelRegs :=
  if r.mode = .awake then some { r with xs := none, xe := none, ptr := .none } else none

/-- The command byte of ROW_ADDR_SET (R169). -/
def takeRowAddrSet (r : PanelRegs) : Option PanelRegs :=
  if r.mode = .awake then some { r with ys := none, ye := none, ptr := .none } else none

/-- The command byte of MEM_WRITE (R170). -/
def takeMemWrite (cfg : Config) (r : PanelRegs) : Option PanelRegs :=
  match r.xs, r.xe, r.ys, r.ye with
  | some xs, some _, some ys, some _ =>
    if r.mode = .awake ∧ r.colmod = some cfg.colmodByte then
      some { r with ptr := .pos xs.toNat ys.toNat, latch := none }
    else none
  | _, _, _, _ => none

/-- The command byte of MEM_ACCESS_CTL (R166). -/
def takeMemAccessCtl (r : PanelRegs) : Option PanelRegs := if r.mode = .awake then some r else none

/-- The command byte of PIXEL_FORMAT (R167). -/
def takePixelFormat (r : PanelRegs) : Option PanelRegs := if r.mode = .awake then some r else none

/-- A command byte at time `now` (R162, R165, R174). -/
def takeCommand (cfg : Config) (now : Nat) (c : Byte) (r : PanelRegs) : Option PanelRegs :=
  if now < r.tOk then none
  else
    match c.toNat with
    | 0x11 => takeSleepOut cfg now (startFrame c r)
    | 0x29 => takeDisplayOn (startFrame c r)
    | 0x2A => takeColAddrSet (startFrame c r)
    | 0x2B => takeRowAddrSet (startFrame c r)
    | 0x2C => takeMemWrite cfg (startFrame c r)
    | 0x36 => takeMemAccessCtl (startFrame c r)
    | 0x3A => takePixelFormat (startFrame c r)
    | _ => none

/-- A data byte of MEM_ACCESS_CTL (R166). -/
def dataMemAccessCtl (d : Byte) (r : PanelRegs) : Option PanelRegs :=
  if r.idx = 0 then some { r with madctl := some d, idx := 1 } else none

/-- A data byte of PIXEL_FORMAT (R167). -/
def dataPixelFormat (d : Byte) (r : PanelRegs) : Option PanelRegs :=
  if r.idx = 0 then some { r with colmod := some d, idx := 1 } else none

/-- A data byte of an address-set frame before d3: it is kept (R168). -/
def keepArg (d : Byte) (r : PanelRegs) : PanelRegs := { r with args := r.args ++ [d], idx := r.idx + 1 }

/-- A data byte of COL_ADDR_SET (R168). -/
def dataColAddrSet (cfg : Config) (d : Byte) (r : PanelRegs) : Option PanelRegs :=
  if r.idx < 3 then some (keepArg d r)
  else
    match r.idx, r.args with
    | 3, [d0, d1, d2] =>
      if (word16 d0 d1).toNat ≤ (word16 d2 d).toNat ∧ (word16 d2 d).toNat < cfg.width then
        some { keepArg d r with xs := some (word16 d0 d1), xe := some (word16 d2 d) }
      else none
    | _, _ => none

/-- A data byte of ROW_ADDR_SET (R169). -/
def dataRowAddrSet (cfg : Config) (d : Byte) (r : PanelRegs) : Option PanelRegs :=
  if r.idx < 3 then some (keepArg d r)
  else
    match r.idx, r.args with
    | 3, [d0, d1, d2] =>
      if (word16 d0 d1).toNat ≤ (word16 d2 d).toNat ∧ (word16 d2 d).toNat < cfg.height then
        some { keepArg d r with ys := some (word16 d0 d1), ye := some (word16 d2 d) }
      else none
    | _, _ => none

/-- Where the pointer goes after the pixel at `(x, y)` (R171). -/
def nextPtr (xs xe ye x y : Nat) : Ptr :=
  if x < xe then .pos (x + 1) y else if y < ye then .pos xs (y + 1) else .pastEnd

/-- A whole pixel word arrives (R171). -/
def takePixel (cfg : Config) (v : Word16) (r : PanelRegs) : Option PanelRegs :=
  match r.ptr, r.xs, r.xe, r.ye with
  | .pos x y, some xs, some xe, some ye =>
    some { r with gram := r.gram.set (posIndex cfg x y) v, ptr := nextPtr xs.toNat xe.toNat ye.toNat x y }
  | _, _, _, _ => none

/-- A data byte of MEM_WRITE (R171, R172), only in the configured pixel format (R167). -/
def dataMemWrite (cfg : Config) (d : Byte) (r : PanelRegs) : Option PanelRegs :=
  if r.colmod = some cfg.colmodByte then
    match r.latch with
    | none => some { r with latch := some d, idx := r.idx + 1 }
    | some h => takePixel cfg (word16 h d) { r with latch := none, idx := r.idx + 1 }
  else none

/-- A data byte (R162, R164, R173, R174). -/
def takeData (cfg : Config) (d : Byte) (r : PanelRegs) : Option PanelRegs :=
  match r.cmd.map BitVec.toNat with
  | some 0x36 => dataMemAccessCtl d r
  | some 0x3A => dataPixelFormat d r
  | some 0x2A => dataColAddrSet cfg d r
  | some 0x2B => dataRowAddrSet cfg d r
  | some 0x2C => dataMemWrite cfg d r
  | _ => none

/-- A command byte at the panel. -/
def panelCommand (cfg : Config) (now : Nat) (c : Byte) (p : Panel) : Panel :=
  { p with regs := p.regs.bind (takeCommand cfg now c) }

/-- Data bytes at the panel, in order. -/
def panelData (cfg : Config) (ds : List Byte) (p : Panel) : Panel :=
  { p with regs := ds.foldl (fun r d => r.bind (takeData cfg d)) p.regs }

/-- The bytes of a transfer, classified by the DC level (10_state.md R32). With DC not driven nothing is known. -/
def panelHear (cfg : Config) (now : Nat) (dc : PinState) (bs : List Byte) (p : Panel) : Panel :=
  match dc with
  | .driven .low => bs.foldl (fun p c => panelCommand cfg now c p) p
  | .driven .high => panelData cfg bs p
  | _ => if bs = [] then p else { p with regs := none }

/-- The RESET line goes to a level at time `now` (R163). -/
def panelReset (cfg : Config) (now : Nat) (lvl : Level) (p : Panel) : Panel :=
  match lvl, p.lowSince with
  | .low, none => { p with lowSince := some now }
  | .low, some _ => p
  | .high, none => p
  | .high, some t =>
    if t + micros cfg.resetSettleMs ≤ now then ⟨none, some (resetRegs cfg now)⟩ else ⟨none, none⟩

/-- The receiver consumes one wire event (R160). -/
def panelSee (cfg : Config) (now : Nat) (dc : PinState) (e : Event) (p : Panel) : Panel :=
  match e with
  | .xfer bs => panelHear cfg now dc bs p
  | .pin .reset lvl => panelReset cfg now lvl p
  | .pin .dc _ | .pin .backlight _ | .wait _ | .pinOut _ | .spiOpen _ _ | .spiClk _ | .spiMode _ => p

end Sys2Proof.Machine
end

