-- ==== Sys2Proof/Machine/Ops.lean ====
section
/-! DEFINITION. The shared operations: asking the outside world, emitting a wire event (10_state.md R30, R31), recording in
the shadow (R26, R27), taking an error (60_exceptions.md R185) and returning from an operation, one step of the sequencer
(R21), and issuing an operation. -/

namespace Sys2Proof.Machine

/-- The `k`-th answer still to come: a given one, or past those a free one. -/
def Oracle.answer {α : Type} (free : Nat → α) (o : Oracle α) (k : Nat) : α :=
  (o.given[k]?).getD (free (o.taken + k))

/-- One answer has been taken. -/
def Oracle.advance {α : Type} (o : Oracle α) : Oracle α := ⟨o.given.tail, o.taken + 1⟩

/-- What the `k`-th coming `writeBytes` call does (R103, R229). -/
def transferAnswer (w : World) (k : Nat) : TransferAnswer := w.transfers.answer Config.freeTransfer k

/-- Whether the `k`-th coming `open`, `setClockHz` or `setMode` call succeeds (R39). -/
def callAnswer (w : World) (k : Nat) : Bool := w.calls.answer Config.freeCall k

/-- The extra time before the `k`-th coming event (R226). -/
def gapAnswer (w : World) (k : Nat) : Nat := w.gaps.answer Config.freeGap k

/-- Whether the `k`-th coming registration succeeds (R195). -/
def registrationAnswer (w : World) (k : Nat) : Bool := w.registrations.answer Config.freeRegistration k

/-- The pins after an event (R23). Configuring RESET or DC leaves it not driven (43_display_session.md R145). Configuring
BACKLIGHT has no such effect on a level the block has set, in a SETUP after one that failed: it stays on (R36 d, R145, log 28). -/
def pinsAfter (e : Event) (p : Pins) : Pins :=
  match e with
  | .pinOut .reset => { p with reset := .outUndriven }
  | .pinOut .dc => { p with dc := .outUndriven }
  | .pinOut .backlight =>
    { p with backlight := if p.backlight = .unconfigured then .outUndriven else p.backlight }
  | .pin .reset lvl => { p with reset := .driven lvl }
  | .pin .dc lvl => { p with dc := .driven lvl }
  | .pin .backlight lvl => { p with backlight := .driven lvl }
  | .xfer _ | .wait _ | .spiOpen _ _ | .spiClk _ | .spiMode _ => p

/-- The time an event asks for (R226). -/
def waitTime : Event → Nat
  | .wait ms => micros ms
  | _ => 0

/-- When the next event happens: its own wait and a non-negative gap from now (R226). -/
def eventTime (e : Event) (s : State) : Nat := s.now + waitTime e + gapAnswer s.world 0

/-- `emit e` (00_scope.md R13, R31): the trace grows, the pins follow, time passes and the panel takes the event. -/
def emit (e : Event) (s : State) : State :=
  { s with
    trace := s.trace ++ [e]
    pins := pinsAfter e s.pins
    panel := panelSee s.cfg (eventTime e s) s.pins.dc e s.panel
    now := eventTime e s
    world := { s.world with gaps := s.world.gaps.advance } }

/-- One record in the shadow. -/
def editShadow (sh : Shadow) (e : Edit) : Shadow :=
  match e with
  | .power p => { sh with power := p }
  | .madctl v => { sh with madctl := v }
  | .colmod v => { sh with colmod := v }
  | .displayOn v => { sh with displayOn := v }
  | .window v => { sh with window := v }
  | .ramwr v => { sh with ramwr := v }
  | .busOpen => sh

/-- Records of an operation (R26, R27, R28). -/
def applyEdits (es : List Edit) (s : State) : State :=
  { s with shadow := es.foldl editShadow s.shadow, busOpen := s.busOpen || decide (Edit.busOpen ∈ es) }

/-- `raise E` (60_exceptions.md R185), the block's trap entry: the running operation stops, `busy` and `seq` go to 0 and
`err` takes the code. Nothing is saved, nothing restored. There is no return instruction (R188). -/
def raise (e : ErrClass) (s : State) : State := endOp e s

/-- An operation has emitted its whole list (R21): the return to the host. -/
def complete (s : State) : State := endOp .none s

/-- The event happened: it is emitted, the records made, and `seq` counts it (R21). -/
def succeed (it : Item) (s : State) : State :=
  { applyEdits it.onOk (emit it.event s) with seq := s.seq + 1 }

/-- A transfer failed after a prefix reached the wire: the trace holds that prefix unless it is empty (R103), the records of
a failure are made (R27), TransportError is raised. -/
def failTransfer (it : Item) (sent : List Byte) (s : State) : State :=
  raise .transport (applyEdits it.onFail (if sent = [] then s else emit (.xfer sent) s))

/-- One answer to `writeBytes` has been taken. -/
def takeTransferAnswer (s : State) : State :=
  { s with world := { s.world with transfers := s.world.transfers.advance } }

/-- One answer to a configuration call has been taken. -/
def takeCallAnswer (s : State) : State := { s with world := { s.world with calls := s.world.calls.advance } }

/-- What became of one entry of the event list. -/
inductive ItemResult where
  | done (s : State)
  | failed (s : State)
  | stalled (s : State)

/-- One entry of the event list: an SPI call has the outcome the collaborator gives it (R39, R182, R229), a GPIO call or a
delay always succeeds (R38). A call that never returns takes no answer, so it never returns again. -/
def doItem (it : Item) (s : State) : ItemResult :=
  match it.event with
  | .xfer bs =>
    match transferAnswer s.world 0 with
    | .complete => .done (succeed it (takeTransferAnswer s))
    | .fail k => .failed (failTransfer it (bs.take k) (takeTransferAnswer s))
    | .never => .stalled s
  | .spiOpen _ _ | .spiClk _ | .spiMode _ =>
    if callAnswer s.world 0 then .done (succeed it (takeCallAnswer s))
    else .failed (raise .transport (applyEdits it.onFail (takeCallAnswer s)))
  | .pinOut _ | .pin _ _ | .wait _ => .done (succeed it s)

/-- The rest of an operation's event list, to its completion, its error or its hang. -/
def runItems : List Item → State → State
  | [], s => complete s
  | it :: rest, s =>
    match doItem it s with
    | .done s' => runItems rest s'
    | .failed s' => s'
    | .stalled s' => s'

/-- One step of the sequencer (R21): it emits event number `seq` of the running list, or completes the operation when the
list is done. Nothing happens while `busy` is 0. -/
def tick (s : State) : State :=
  if s.busy then
    match s.op with
    | some o =>
      match o.items[s.seq]? with
      | some it =>
        match doItem it s with
        | .done s' => s'
        | .failed s' => s'
        | .stalled s' => s'
      | none => complete s
    | none => s
  else s

/-- An operation as its rule gives it in the state in which it is issued: the precondition it breaks, if any; whether it
raises ConfigurationError; what it writes to the canvas and returns; its event list. -/
structure Ask where
  instr : Instr
  illegal : Bool
  stop : Option Refusal
  canvas : Memory Colour
  encOut : List Byte
  items : List Item

/-- An operation that writes no canvas and returns no bytes. -/
def askEvents (i : Instr) (illegal : Bool) (stop : Option Refusal) (items : List Item) (s : State) : Ask :=
  ⟨i, illegal, stop, s.canvas, s.encOut, items⟩

/-- The precondition `bus_open = 1` (70_reset_and_hazards.md R211). -/
def needsBus (s : State) : Option Refusal := if s.busOpen then none else some .busNotOpen

/-- The operation has been latched, its canvas write made (R21, R65). -/
def latch (a : Ask) (s : State) : State :=
  startOp a.instr a.items { s with canvas := a.canvas, encOut := a.encOut }

/-- Issue an operation: after a race nothing is said (R63); while `busy` is 1 it is a race (R22, R63); ConfigurationError
comes first (60_exceptions.md R186); a broken precondition has no meaning (R211); otherwise it is latched and `go` says how
far the sequencer takes it. That a reserved select, which names no operation (30_encoding.md R85), counts as one while `busy`
is 1, setting `race` and leaving `err`, is the model's choice (log 17). -/
def issue (a : Ask) (go : State → State) (s : State) : Host.Outcome State Fault Refusal :=
  if s.race then .refused .raced
  else if s.busy then .next (setRace s)
  else if a.illegal then .next (raise .configuration s)
  else
    match a.stop with
    | some r => .refused r
    | none => .next (go (latch a s))

/-- A blocking call: the operation runs to its completion, its error or its hang. -/
def perform (a : Ask) (s : State) : Host.Outcome State Fault Refusal := issue a (runItems a.items) s

/-- A call that does not wait: the operation is latched and the sequencer goes on step by step. -/
def launch (a : Ask) (s : State) : Host.Outcome State Fault Refusal := issue a id s

/-- A frame reaches the panel: a command byte, then data bytes, at the next moment (44_wire_commands.md R162). -/
def arriveFrame (c : Byte) (data : List Byte) (s : State) : Host.Outcome State Fault Refusal :=
  if s.race then .refused .raced
  else
    .next { s with
      panel := panelData s.cfg data (panelCommand s.cfg (s.now + gapAnswer s.world 0) c s.panel)
      now := s.now + gapAnswer s.world 0
      world := { s.world with gaps := s.world.gaps.advance } }

/-- Data bytes of the current frame reach the panel (R162). -/
def arriveData (data : List Byte) (s : State) : Host.Outcome State Fault Refusal :=
  if s.race then .refused .raced
  else
    .next { s with
      panel := panelData s.cfg data s.panel
      now := s.now + gapAnswer s.world 0
      world := { s.world with gaps := s.world.gaps.advance } }

end Sys2Proof.Machine
end

