-- ==== Sys2Proof/Machine/Buttons.lean ====
section
/-! DEFINITION. The Input Watcher (60_exceptions.md R190 to R196), host-side: configuring a line, registering,
rebinding, clearing, and an edge that runs a callback. It touches the block only through the callback's requests (R193). -/

namespace Sys2Proof.Machine

/-- One answer to a registration has been taken. -/
def takeRegistrationAnswer (w : World) : World := { w with registrations := w.registrations.advance }

/-- `clearEdgeDetection(pin)` (R191). -/
def clearPin (pin : Nat) (s : State) : State :=
  { s with
    watcher := { s.watcher with
      bindings := s.watcher.bindings.erase pin
      gpio := s.watcher.gpio ++ [.clearEdgeDetection pin] } }

/-- `configureInput(pin, pullMode)` (10_state.md R38, R194). -/
def configurePin (pull : PullMode) (pin : Nat) (s : State) : State :=
  { s with watcher := { s.watcher with gpio := s.watcher.gpio ++ [.configureInput pin pull] } }

/-- Whether the coming registration on a pin succeeds: never while the pin has one (R191, 70_reset_and_hazards.md R227),
otherwise as the platform answers (R195). -/
def registers (pin : Nat) (s : State) : Bool := (s.watcher.bindings.get pin).isNone && registrationAnswer s.world 0

/-- `onFallingEdge(pin, callback, DEBOUNCE_MS)` (R191, R195). A registration that fails leaves the one that is there. -/
def registerPin (cb : List HostPort) (pin : Nat) (s : State) : State :=
  { s with
    watcher := { bindings := if registers pin s then s.watcher.bindings.set pin cb else s.watcher.bindings
                 lastResult := some (if registers pin s then .bound else .unavailable)
                 gpio := s.watcher.gpio ++ [.onFallingEdge pin cb s.cfg.debounceMs] }
    world := takeRegistrationAnswer s.world }

/-- `rebind(pin, callback)` (R191): clear, then set; after a first failure clear and set once more; a second failure leaves
the button unbound and is reported (R195). -/
def rebindPin (cb : List HostPort) (pin : Nat) (s : State) : State :=
  if registers pin (clearPin pin s) then registerPin cb pin (clearPin pin s)
  else registerPin cb pin (clearPin pin (registerPin cb pin (clearPin pin s)))

/-- The calls of a callback as moves (R193): the first does not look at `busy`, so it is a race if an operation runs; each
later one is a blocking call, made when the one before has ended (20_memory.md R62). -/
def callbackMoves : List HostPort → List Move
  | [] => []
  | p :: ps => .async p :: ps.map .call

/-- An edge on a pin (R190, R193): the bound callback's calls come next; an unbound pin does nothing. -/
def edgeOn (pin : Nat) (s : State) : State :=
  { s with inputs := callbackMoves ((s.watcher.bindings.get pin).getD []) ++ s.inputs }

/-- A move on a button, at its pin (R29); there is no such button beyond the configuration's list (R5, R194). -/
def onButton (button : Nat) (f : Nat → State → State) (s : State) : State :=
  match s.cfg.buttonPins[button]? with
  | some pin => f pin s
  | none => s

end Sys2Proof.Machine
end

