-- ==== Sys2Proof/Machine/Encoder.lean ====
section
/-! DEFINITION. The Pixel Encoder (42_pixel_encoder.md): ENCODE called by the host on its own. -/

namespace Sys2Proof.Machine

/-- ENCODE as asked (R130): the byte sequence goes to the port `enc_out`; no event, no precondition (R139).
In a configuration that is not square, which SETUP refuses and R6 excludes, the rotation leaves the canvas and the spec gives no
bytes: those the model gives are its own choice (log 24). -/
def askEncode (s : State) : Ask := ⟨.encode, false, none, s.canvas, encodeCanvas s.cfg s.canvas, []⟩

/-- ENCODE (R130). -/
def execEncode (s : State) : Host.Outcome State Fault Refusal := perform (askEncode s) s

end Sys2Proof.Machine
end

