-- ==== Sys2Proof/Machine/Transport.lean ====
section
/-! DEFINITION. Bus Transport (40_bus_transport.md): WRITE_COMMAND_BYTE and WRITE_DATA_BYTES, and the event lists every other
operation that sends bytes is made of. -/

namespace Sys2Proof.Machine

/-- A pin level as an entry of an event list. -/
def pinItem (sig : Signal) (lvl : Level) : Item := ⟨.pin sig lvl, [], []⟩

/-- A delay as an entry of an event list, with what is recorded when it is over. -/
def waitItem (ms : Nat) (onOk : List Edit) : Item := ⟨.wait ms, onOk, []⟩

/-- One command byte (R100): DC low, driven every time (R104), then the byte alone in its transfer. `ramwr` follows the byte
when it has been sent (10_state.md R26). -/
def commandItems (b : Byte) (onOk onFail : List Edit) : List Item :=
  [pinItem .dc .low, ⟨.xfer [b], .ramwr (b == 0x2C#8) :: onOk, onFail⟩]

/-- The transfers of a payload: `onOk` is recorded when the last has succeeded, `onFail` when any fails (R27). -/
def transferItems (onOk onFail : List Edit) : List (List Byte) → List Item
  | [] => []
  | [t] => [⟨.xfer t, onOk, onFail⟩]
  | t :: ts => ⟨.xfer t, [], onFail⟩ :: transferItems onOk onFail ts

/-- A data payload (R101): DC high once, then one transfer for each chunk; none for an empty payload (R105). -/
def payloadItems (cfg : Config) (bs : List Byte) (onOk onFail : List Edit) : List Item :=
  pinItem .dc .high :: transferItems onOk onFail (chunks cfg bs)

/-- What the shadow gives up when the host itself sends a command byte (10_state.md R43), `ramwr` apart. -/
def directEdits (b : Byte) : List Edit :=
  match b.toNat with
  | 0x2C => []
  | 0x2A | 0x2B => [.window none]
  | 0x11 => [.power .unknown]
  | 0x29 => [.displayOn none]
  | 0x36 => [.madctl none]
  | 0x3A => [.colmod none]
  | _ => [.power .unknown, .madctl none, .colmod none, .displayOn none, .window none]

/-- WRITE_COMMAND_BYTE as asked (R100, R43). -/
def askWriteCommandByte (b : Byte) (s : State) : Ask :=
  askEvents (.writeCommandByte b) false (needsBus s) (commandItems b (directEdits b) (directEdits b)) s

/-- WRITE_COMMAND_BYTE (R100). -/
def execWriteCommandByte (b : Byte) (s : State) : Host.Outcome State Fault Refusal := perform (askWriteCommandByte b s) s

/-- WRITE_DATA_BYTES as asked (R101). The host's own payload does not change the shadow (10_state.md R43). -/
def askWriteDataBytes (bs : List Byte) (s : State) : Ask :=
  askEvents (.writeDataBytes bs) false (needsBus s) (payloadItems s.cfg bs [] []) s

/-- WRITE_DATA_BYTES (R101). -/
def execWriteDataBytes (bs : List Byte) (s : State) : Host.Outcome State Fault Refusal := perform (askWriteDataBytes bs s) s

end Sys2Proof.Machine
end

