-- ==== Sys2Proof/Machine/Controller.lean ====
section
/-! DEFINITION. The Panel Controller (41_panel_controller.md): HARD_RESET, INIT_SEQUENCE, SET_ADDRESS_WINDOW,
BEGIN_RAM_WRITE. None tests the lifecycle or reads the shadow (R119). -/

namespace Sys2Proof.Machine

/-- The six events of HARD_RESET (R110); the shadow is written when the last delay is over (10_state.md R27). -/
def hardResetItems (cfg : Config) : List Item :=
  [pinItem .reset .high, waitItem cfg.resetSettleMs [],
   pinItem .reset .low, waitItem cfg.resetSettleMs [],
   pinItem .reset .high,
   waitItem cfg.resetSettleMs
     [.power .asleep, .madctl none, .colmod none, .displayOn none, .window none, .ramwr false]]

/-- HARD_RESET as asked (R110): RESET must not be UNCONFIGURED. -/
def askHardReset (s : State) : Ask :=
  askEvents .hardReset false (if s.pins.reset = .unconfigured then some .resetPinUnconfigured else none)
    (hardResetItems s.cfg) s

/-- HARD_RESET (R110). -/
def execHardReset (s : State) : Host.Outcome State Fault Refusal := perform (askHardReset s) s

/-- The event list of INIT_SEQUENCE (R112), with the shadow's record of each frame (10_state.md R26, R27). -/
def initItems (cfg : Config) : List Item :=
  commandItems 0x11#8 [.power .awake] [.power .unknown] ++
  [waitItem cfg.sleepOutMs []] ++
  commandItems 0x36#8 [] [.madctl none] ++
  payloadItems cfg [cfg.madctlByte] [.madctl (some cfg.madctlByte)] [.madctl none] ++
  commandItems 0x3A#8 [] [.colmod none] ++
  payloadItems cfg [cfg.colmodByte] [.colmod (some cfg.colmodByte)] [.colmod none] ++
  commandItems 0x29#8 [.displayOn (some true)] [.displayOn none]

/-- INIT_SEQUENCE as asked (R112). -/
def askInitSequence (s : State) : Ask := askEvents .initSequence false (needsBus s) (initItems s.cfg) s

/-- INIT_SEQUENCE (R112). -/
def execInitSequence (s : State) : Host.Outcome State Fault Refusal := perform (askInitSequence s) s

/-- The event list of SET_ADDRESS_WINDOW (R114): the column command with the x pair, then the row command with the y pair;
the window is recorded on completion and given up on any failure. -/
def windowItems (cfg : Config) (w : Window) : List Item :=
  commandItems 0x2A#8 [] [.window none] ++
  payloadItems cfg (columnBytes w) [] [.window none] ++
  commandItems 0x2B#8 [] [.window none] ++
  payloadItems cfg (rowBytes w) [.window (some w)] [.window none]

/-- SET_ADDRESS_WINDOW as asked (R114, R115). -/
def askSetAddressWindow (x0 y0 x1 y1 : Int) (s : State) : Ask :=
  askEvents (.setAddressWindow x0 y0 x1 y1) (!windowInBounds s.cfg ⟨x0, y0, x1, y1⟩) (needsBus s)
    (windowItems s.cfg ⟨x0, y0, x1, y1⟩) s

/-- SET_ADDRESS_WINDOW (R114). -/
def execSetAddressWindow (x0 y0 x1 y1 : Int) (s : State) : Host.Outcome State Fault Refusal :=
  perform (askSetAddressWindow x0 y0 x1 y1 s) s

/-- The event list of BEGIN_RAM_WRITE (R117); a failed 0x2C leaves `ramwr` as it was (10_state.md R27). -/
def ramWriteItems : List Item := commandItems 0x2C#8 [] []

/-- BEGIN_RAM_WRITE as asked (R117). -/
def askBeginRamWrite (s : State) : Ask := askEvents .beginRamWrite false (needsBus s) ramWriteItems s

/-- BEGIN_RAM_WRITE (R117). -/
def execBeginRamWrite (s : State) : Host.Outcome State Fault Refusal := perform (askBeginRamWrite s) s

end Sys2Proof.Machine
end

