-- ==== Sys2Proof/Machine/Session.lean ====
section
/-! DEFINITION. The Display Session (43_display_session.md): SETUP, PRESENT, CLEAR, DRAW, and the reserved selects
(30_encoding.md R85). -/

namespace Sys2Proof.Machine

/-- A configuration call that records nothing. -/
def configItem (e : Event) : Item := ⟨e, [], []⟩

/-- The seven events of SETUP (R145); the bus is open when the last has succeeded. -/
def setupItems (cfg : Config) : List Item :=
  [configItem (.pinOut .reset), configItem (.pinOut .dc), configItem (.pinOut .backlight),
   pinItem .backlight .high,
   configItem (.spiOpen cfg.spiBus cfg.spiDevice), configItem (.spiClk cfg.spiHz),
   ⟨.spiMode 0, [.busOpen], []⟩]

/-- SETUP as asked (R145, 00_scope.md R6): a geometry that is not square or is empty raises ConfigurationError. -/
def askSetup (s : State) : Ask :=
  askEvents .setup (!decide (s.cfg.width = s.cfg.height ∧ 1 ≤ s.cfg.width))
    (if s.busOpen then some .alreadySetUp else none) (setupItems s.cfg) s

/-- SETUP (R145). -/
def execSetup (s : State) : Host.Outcome State Fault Refusal := perform (askSetup s) s

/-- The event list of PRESENT (R146): the full-frame window, memory-write, then the encoded canvas of the moment the
operation starts (20_memory.md R65). -/
def presentItems (cfg : Config) (canvas : Memory Colour) : List Item :=
  windowItems cfg (fullWindow cfg) ++ ramWriteItems ++ payloadItems cfg (encodeCanvas cfg canvas) [] []

/-- PRESENT as asked (R146). -/
def askPresent (s : State) : Ask := askEvents .present false (needsBus s) (presentItems s.cfg s.canvas) s

/-- PRESENT (R146). -/
def execPresent (s : State) : Host.Outcome State Fault Refusal := perform (askPresent s) s

/-- CLEAR as asked (R149): every position takes the colour; no event. -/
def askClear (c : Colour) (s : State) : Ask := ⟨.clear c, false, none, Memory.fill s.cfg.npix c, s.encOut, []⟩

/-- CLEAR (R149). -/
def execClear (c : Colour) (s : State) : Host.Outcome State Fault Refusal := perform (askClear c s) s

/-- DRAW as asked (R150): one position takes the colour; outside the canvas ConfigurationError; no event. -/
def askDraw (x y : Int) (c : Colour) (s : State) : Ask :=
  ⟨.draw x y c, !onCanvas s.cfg x y, none, s.canvas.set (posIndex s.cfg x.toNat y.toNat) c, s.encOut, []⟩

/-- DRAW (R150). -/
def execDraw (x y : Int) (c : Colour) (s : State) : Host.Outcome State Fault Refusal := perform (askDraw x y c s) s

/-- The reserved select 0xB as asked (30_encoding.md R85): ConfigurationError. While `busy` is 1 it counts as an operation
(log 17). -/
def askReserved0xB (s : State) : Ask := askEvents .reserved0xB true none [] s

/-- The reserved select 0xB (30_encoding.md R85). -/
def execReserved0xB (s : State) : Host.Outcome State Fault Refusal := perform (askReserved0xB s) s

/-- The reserved selects 0xC to 0xF as asked (30_encoding.md R85): ConfigurationError. While `busy` is 1 they count as an
operation (log 17). -/
def askReserved0xC0xF (low : BitVec 2) (s : State) : Ask := askEvents (.reserved0xC0xF low) true none [] s

/-- The reserved selects 0xC to 0xF (30_encoding.md R85). -/
def execReserved0xC0xF (low : BitVec 2) (s : State) : Host.Outcome State Fault Refusal :=
  perform (askReserved0xC0xF low s) s

end Sys2Proof.Machine
end

