-- ==== Sys2Proof/Machine/Wire.lean ====
section
/-! DEFINITION. The seven wire commands and the two data formats as the panel takes them (44_wire_commands.md): the meanings
of the WIRE, PIXEL and WINDOW rows. The bytes arrive at the
reference receiver by themselves (R160); the block's own state is not touched. -/

namespace Sys2Proof.Machine

/-- SLEEP_OUT (R164). -/
def execSleepOut (data : List Byte) (s : State) : Host.Outcome State Fault Refusal := arriveFrame 0x11#8 data s

/-- DISPLAY_ON (R173). -/
def execDisplayOn (data : List Byte) (s : State) : Host.Outcome State Fault Refusal := arriveFrame 0x29#8 data s

/-- COL_ADDR_SET (R168). -/
def execColAddrSet (data : List Byte) (s : State) : Host.Outcome State Fault Refusal := arriveFrame 0x2A#8 data s

/-- ROW_ADDR_SET (R169). -/
def execRowAddrSet (data : List Byte) (s : State) : Host.Outcome State Fault Refusal := arriveFrame 0x2B#8 data s

/-- MEM_WRITE (R170, R171). -/
def execMemWrite (data : List Byte) (s : State) : Host.Outcome State Fault Refusal := arriveFrame 0x2C#8 data s

/-- MEM_ACCESS_CTL (R166). -/
def execMemAccessCtl (data : List Byte) (s : State) : Host.Outcome State Fault Refusal := arriveFrame 0x36#8 data s

/-- PIXEL_FORMAT (R167). -/
def execPixelFormat (data : List Byte) (s : State) : Host.Outcome State Fault Refusal := arriveFrame 0x3A#8 data s

/-- PIXEL: the two data bytes of one pixel word, high byte first (R171, R172). -/
def execPixel (v : Word16) (s : State) : Host.Outcome State Fault Refusal := arriveData (bytes16 v) s

/-- WINDOW: the four data bytes of a start and an end coordinate (R168, R169). -/
def execWindow (a b : Word16) (s : State) : Host.Outcome State Fault Refusal := arriveData (windowBytes a b) s

end Sys2Proof.Machine
end

