-- ==== Sys2Proof/Machine/Dispatch.lean ====
section
/-! DEFINITION. One arm for each constructor of Instr: the meaning of an instruction that is run to its end. -/

namespace Sys2Proof.Machine

def exec (i : Instr) (s : State) : Host.Outcome State Fault Refusal :=
  match i with
  | .sleepOut data => Sys2Proof.Machine.execSleepOut data s
  | .displayOn data => Sys2Proof.Machine.execDisplayOn data s
  | .colAddrSet data => Sys2Proof.Machine.execColAddrSet data s
  | .rowAddrSet data => Sys2Proof.Machine.execRowAddrSet data s
  | .memWrite data => Sys2Proof.Machine.execMemWrite data s
  | .memAccessCtl data => Sys2Proof.Machine.execMemAccessCtl data s
  | .pixelFormat data => Sys2Proof.Machine.execPixelFormat data s
  | .setup => Sys2Proof.Machine.execSetup s
  | .hardReset => Sys2Proof.Machine.execHardReset s
  | .initSequence => Sys2Proof.Machine.execInitSequence s
  | .setAddressWindow x0 y0 x1 y1 => Sys2Proof.Machine.execSetAddressWindow x0 y0 x1 y1 s
  | .beginRamWrite => Sys2Proof.Machine.execBeginRamWrite s
  | .writeCommandByte b => Sys2Proof.Machine.execWriteCommandByte b s
  | .writeDataBytes bs => Sys2Proof.Machine.execWriteDataBytes bs s
  | .encode => Sys2Proof.Machine.execEncode s
  | .present => Sys2Proof.Machine.execPresent s
  | .clear c => Sys2Proof.Machine.execClear c s
  | .draw x y c => Sys2Proof.Machine.execDraw x y c s
  | .reserved0xB => Sys2Proof.Machine.execReserved0xB s
  | .reserved0xC0xF low => Sys2Proof.Machine.execReserved0xC0xF low s
  | .pixel v => Sys2Proof.Machine.execPixel v s
  | .window a b => Sys2Proof.Machine.execWindow a b s

end Sys2Proof.Machine
end

