-- ==== Sys2Proof/Machine/Fetch.lean ====
section
/-! DEFINITION. How a move of the outside world reaches the machine: decoding what is presented, running it or only starting
it, and one step. -/

namespace Sys2Proof.Machine

/-- An operation that is only started (10_state.md R21); a frame or data bytes reach the panel at once. -/
def begin (i : Instr) (s : State) : Host.Outcome State Fault Refusal :=
  match i with
  | .sleepOut data => execSleepOut data s
  | .displayOn data => execDisplayOn data s
  | .colAddrSet data => execColAddrSet data s
  | .rowAddrSet data => execRowAddrSet data s
  | .memWrite data => execMemWrite data s
  | .memAccessCtl data => execMemAccessCtl data s
  | .pixelFormat data => execPixelFormat data s
  | .setup => launch (askSetup s) s
  | .hardReset => launch (askHardReset s) s
  | .initSequence => launch (askInitSequence s) s
  | .setAddressWindow x0 y0 x1 y1 => launch (askSetAddressWindow x0 y0 x1 y1 s) s
  | .beginRamWrite => launch (askBeginRamWrite s) s
  | .writeCommandByte b => launch (askWriteCommandByte b s) s
  | .writeDataBytes bs => launch (askWriteDataBytes bs s) s
  | .encode => launch (askEncode s) s
  | .present => launch (askPresent s) s
  | .clear c => launch (askClear c s) s
  | .draw x y c => launch (askDraw x y c s) s
  | .reserved0xB => launch (askReserved0xB s) s
  | .reserved0xC0xF low => launch (askReserved0xC0xF low s) s
  | .pixel v => execPixel v s
  | .window a b => execWindow a b s

/-- What bytes that are no instruction do: a foreign command byte sets the receiver UNDEFINED (44_wire_commands.md R174);
anything else is in none of the four formats. -/
def undecodable (e : DecodeError) (s : State) : Host.Outcome State Fault Refusal :=
  match e with
  | .foreignOpcode c data => arriveFrame c data s
  | .emptyFrame => .fault (.malformedRequest .emptyFrame)
  | .pixelLength n => .fault (.malformedRequest (.pixelLength n))
  | .windowLength n => .fault (.malformedRequest (.windowLength n))

/-- What is presented is run, a host operation as a blocking call. -/
def serve (r : Request) (s : State) : Host.Outcome State Fault Refusal :=
  match decode r with
  | .ok i => exec i s
  | .error e => undecodable e s

/-- The move has been taken from the list. -/
def consume (rest : List Move) (s : State) : State := { s with inputs := rest }

/-- What was presented has been taken. -/
def takePresented (rest : List Request) (s : State) : State := { s with presented := rest }

/-- One move. A blocking call waits while an operation runs, and the sequencer steps meanwhile. -/
def doMove (m : Move) (rest : List Move) (s : State) : Host.Outcome State Fault Refusal :=
  match m with
  | .call p => if s.busy then .next (tick s) else exec (decodeHostop p) (consume rest s)
  | .async p => begin (decodeHostop p) (consume rest s)
  | .tick => .next (tick (consume rest s))
  | .configureInput button pull => .next (onButton button (configurePin pull) (consume rest s))
  | .register button cb => .next (onButton button (registerPin cb) (consume rest s))
  | .rebind button cb => .next (onButton button (rebindPin cb) (consume rest s))
  | .unbind button => .next (onButton button clearPin (consume rest s))
  | .edge button => .next (onButton button edgeOn (consume rest s))

/-- One step. After a race nothing is said (20_memory.md R63). What is presented from outside comes first and waits while an
operation runs; then the next move. With none to come the sequencer goes on alone, and an idle block waits
(70_reset_and_hazards.md R210). -/
def advance (s : State) : Host.Outcome State Fault Refusal :=
  if s.race then .refused .raced
  else
    match s.presented, s.inputs with
    | r :: rest, _ => if s.busy then .next (tick s) else serve r (takePresented rest s)
    | [], [] => .next (tick s)
    | [], m :: rest => doMove m rest s

/-- What the table's number `w` presents comes next. -/
def presentTableWord (nbits w : Nat) (s : State) : State :=
  { s with presented := requestOfTableWord nbits w :: s.presented }

end Sys2Proof.Machine
end

