-- ==== Sys2Proof/Machine/Step.lean ====
section
/-! DEFINITION. The step of the machine, and an instruction placed where the step takes its next one. -/

namespace Sys2Proof.Machine

/-- One step of the machine. -/
def step (s : State) : Host.Outcome State Fault Refusal := Sys2Proof.Machine.advance s

/-- `s` with the table's number `w` of `nbits` bits presented next. -/
def State.withFetchWord (s : State) (nbits w : Nat) : State := Sys2Proof.Machine.presentTableWord nbits w s

end Sys2Proof.Machine
end

