-- ==== Sys2Proof/Safety.lean ====
section
/-! DEFINITION. The terms claims are made in: the framed stream (10_state.md R32), what a run may take for granted, how an
operation ends, and the invariants of the machine (10_state.md R21, R36, 20_memory.md R50). -/

namespace Sys2Proof.Safety

open Sys2Proof.Machine

/-- The framed stream from a DC level on: each byte with the level it was sent under, none while DC is undefined (R32). -/
def framedFrom (d : Option Level) : List Event → List (Option Level × Byte)
  | [] => []
  | .pin .dc lvl :: es => framedFrom (some lvl) es
  | .xfer bs :: es => bs.map (fun b => (d, b)) ++ framedFrom d es
  | .pin .reset _ :: es | .pin .backlight _ :: es | .wait _ :: es | .pinOut _ :: es | .spiOpen _ _ :: es
  | .spiClk _ :: es | .spiMode _ :: es => framedFrom d es

/-- The framed stream of a trace (R32). -/
def framed (t : List Event) : List (Option Level × Byte) := framedFrom none t

/-- The variable `d` of R32 after an event. -/
def dcStep (d : Option Level) (e : Event) : Option Level :=
  match e with
  | .pin .dc lvl => some lvl
  | _ => d

/-- The variable `d` of R32 after a trace. -/
def lastDc (t : List Event) : Option Level := t.foldl dcStep none

/-- A command byte and data bytes in the framed stream. -/
def cmdPair (c : Byte) : Option Level × Byte := (some .low, c)
/-- Data bytes in the framed stream. -/
def dataPairs (ds : List Byte) : List (Option Level × Byte) := ds.map (fun d => (some .high, d))

/-- Nothing runs and no race has happened: the host may issue an operation (60_exceptions.md R204). -/
abbrev Idle (s : State) : Prop := s.race = false ∧ s.busy = false

/-- The next `n` transfers complete (R229: "the premise that the transport always answers"). -/
def TransfersComplete (s : State) (n : Nat) : Prop := ∀ k, k < n → transferAnswer s.world k = .complete

/-- Every canvas position has been written (70_reset_and_hazards.md R216). -/
def CanvasWritten (s : State) : Prop := ∀ i, i < s.cfg.npix → (s.canvas.get i).isSome

/-- The operation has ended with a result (R21, R22, R185). -/
def Ended (t : State) (e : ErrClass) : Prop := t.busy = false ∧ t.op = none ∧ t.seq = 0 ∧ t.err = e

/-- What no operation of the block changes: the configuration (R25), the race flag, the Input Watcher, the moves to
come, what is presented. -/
def Untouched (s t : State) : Prop :=
  t.cfg = s.cfg ∧ t.race = s.race ∧ t.watcher = s.watcher ∧ t.inputs = s.inputs ∧ t.presented = s.presented

/-- What an operation that only sends bytes or waits leaves alone as well: the canvas, the returned bytes, `bus_open`. -/
def BlockKept (s t : State) : Prop :=
  t.canvas = s.canvas ∧ t.encOut = s.encOut ∧ t.busOpen = s.busOpen ∧ Untouched s t

/-- No position of the panel's pixel memory has changed, as far as anything is known of it. -/
def GramKept (s t : State) : Prop :=
  ∀ r', t.panel.regs = some r' → ∃ r, s.panel.regs = some r ∧ ∀ i, r'.gram.get i = r.gram.get i

/-- When the next thing reaches the panel (R226). -/
def arrival (s : State) : Nat := s.now + gapAnswer s.world 0

/-- The state in which nothing but the panel, the clock and the gap that was taken differ from `s`. -/
def withPanel (s : State) (p : Panel) : State :=
  { s with panel := p, now := arrival s, world := { s.world with gaps := s.world.gaps.advance } }

/-- The events of one command byte (30_encoding.md R86). -/
def commandEvents (b : Byte) : List Event := [.pin .dc .low, .xfer [b]]

/-- The events of a payload (R86, 40_bus_transport.md R101). -/
def payloadEvents (cfg : Config) (bs : List Byte) : List Event := .pin .dc .high :: (chunks cfg bs).map Event.xfer

/-- The events of HARD_RESET (41_panel_controller.md R110). -/
def hardResetEvents (cfg : Config) : List Event :=
  [.pin .reset .high, .wait cfg.resetSettleMs, .pin .reset .low, .wait cfg.resetSettleMs, .pin .reset .high,
   .wait cfg.resetSettleMs]

/-- The thirteen events of INIT_SEQUENCE (41_panel_controller.md R112). -/
def initEvents (cfg : Config) : List Event :=
  [.pin .dc .low, .xfer [0x11#8], .wait cfg.sleepOutMs, .pin .dc .low, .xfer [0x36#8], .pin .dc .high,
   .xfer [cfg.madctlByte], .pin .dc .low, .xfer [0x3A#8], .pin .dc .high, .xfer [cfg.colmodByte], .pin .dc .low,
   .xfer [0x29#8]]

/-- The events of SET_ADDRESS_WINDOW (41_panel_controller.md R114). -/
def windowEvents (cfg : Config) (w : Window) : List Event :=
  commandEvents 0x2A#8 ++ payloadEvents cfg (windowBytes (coordField w.x0) (coordField w.x1)) ++
  commandEvents 0x2B#8 ++ payloadEvents cfg (windowBytes (coordField w.y0) (coordField w.y1))

/-- The events of PRESENT (43_display_session.md R146, R147). -/
def presentEvents (cfg : Config) (canvas : Memory Colour) : List Event :=
  windowEvents cfg (fullWindow cfg) ++ commandEvents 0x2C#8 ++ payloadEvents cfg (encodeCanvas cfg canvas)

/-- The seven events of SETUP (43_display_session.md R145). -/
def setupEvents (cfg : Config) : List Event :=
  [.pinOut .reset, .pinOut .dc, .pinOut .backlight, .pin .backlight .high, .spiOpen cfg.spiBus cfg.spiDevice,
   .spiClk cfg.spiHz, .spiMode 0]

/-- The event list of an operation issued in `s`, from the spec's expansions (R86). A WIRE, PIXEL or WINDOW row is no
operation of the block and emits nothing. -/
def eventsOf (i : Instr) (s : State) : List Event :=
  match i with
  | .setup => setupEvents s.cfg
  | .hardReset => hardResetEvents s.cfg
  | .initSequence => initEvents s.cfg
  | .setAddressWindow x0 y0 x1 y1 => windowEvents s.cfg ⟨x0, y0, x1, y1⟩
  | .beginRamWrite => commandEvents 0x2C#8
  | .writeCommandByte b => commandEvents b
  | .writeDataBytes bs => payloadEvents s.cfg bs
  | .present => presentEvents s.cfg s.canvas
  | .encode | .clear _ | .draw _ _ _ | .reserved0xB | .reserved0xC0xF _ | .sleepOut _ | .displayOn _ | .colAddrSet _
  | .rowAddrSet _ | .memWrite _ | .memAccessCtl _ | .pixelFormat _ | .pixel _ | .window _ _ => []

/-- The pins and the panel after timed events and nothing else (10_state.md R23, R33): each reaches the panel at its time, under
the DC level of the moment. -/
def hear (cfg : Config) (es : List (Nat × Event)) (q : Pins × Panel) : Pins × Panel :=
  es.foldl (fun q e => (pinsAfter e.2 q.1, panelSee cfg e.1 q.1.dc e.2 q.2)) q

/-- How many transfers an event list makes. -/
def xferCount : List Event → Nat
  | [] => 0
  | .xfer _ :: es => xferCount es + 1
  | .pin _ _ :: es | .wait _ :: es | .pinOut _ :: es | .spiOpen _ _ :: es | .spiClk _ :: es | .spiMode _ :: es =>
    xferCount es

/-- An operation that only sends bytes or waits has completed: its whole event list stands in the trace, in order (R31, R62),
it ended with no error, and nothing else of the block moved but pins, shadow, panel and time. -/
def SentAll (i : Instr) (s t : State) : Prop :=
  t.trace = s.trace ++ eventsOf i s ∧ BlockKept s t ∧ Ended t .none ∧ s.now ≤ t.now

/-- No frame of the receiver is left half sent in a register that `MEM_WRITE` or a claim about it needs (R162). -/
def FrameDone (r : PanelRegs) : Prop :=
  (r.cmd = some 0x36#8 → 1 ≤ r.idx) ∧ (r.cmd = some 0x3A#8 → 1 ≤ r.idx)

/-- What may come between two PRESENTs without a new bring-up (44_wire_commands.md R175): it never makes an initialised
receiver UNDEFINED, whatever its transfers do. -/
def isPictureOp (i : Instr) : Bool :=
  match i with
  | .present | .setAddressWindow _ _ _ _ | .encode | .clear _ | .draw _ _ _ | .reserved0xB | .reserved0xC0xF _ => true
  | .setup | .hardReset | .initSequence | .beginRamWrite | .writeCommandByte _ | .writeDataBytes _ | .sleepOut _
  | .displayOn _ | .colAddrSet _ | .rowAddrSet _ | .memWrite _ | .memAccessCtl _ | .pixelFormat _ | .pixel _
  | .window _ _ => false

/-- Any number of such operations lead from `s` to `t`, each ended, with success or with an error. -/
def Between (s t : State) : Prop :=
  Relation.ReflTransGen (fun a b => ∃ i, isPictureOp i = true ∧ exec i a = .next b ∧ b.busy = false) s t

/-- Every position of the panel holds the packed colour of the rotated canvas (R175). -/
def Shows (cfg : Config) (canvas : Memory Colour) (r : PanelRegs) : Prop :=
  ∀ x y, x < cfg.width → y < cfg.height → r.gram.get (posIndex cfg x y) =
    some (pack565 (canvasAt cfg canvas (rotSrc cfg.rot cfg.width cfg.height x y).1
      (rotSrc cfg.rot cfg.width cfg.height x y).2))

/-- An instruction is one of the host's operations (30_encoding.md R84). -/
def isHostop (i : Instr) : Bool := decide (i.format = .hostop)

/-- The shadow after the host itself has sent the command byte `b` (10_state.md R43). -/
def directShadow (b : Byte) (sh : Shadow) : Shadow :=
  if b = 0x2C#8 then { sh with ramwr := true }
  else if b = 0x2A#8 ∨ b = 0x2B#8 then { sh with window := none, ramwr := false }
  else if b = 0x11#8 then { sh with power := .unknown, ramwr := false }
  else if b = 0x29#8 then { sh with displayOn := none, ramwr := false }
  else if b = 0x36#8 then { sh with madctl := none, ramwr := false }
  else if b = 0x3A#8 then { sh with colmod := none, ramwr := false }
  else ⟨.unknown, none, none, none, none, false⟩

/-- The sequencer position (R21). -/
def SeqInv (s : State) : Prop :=
  (s.busy = false → s.op = none ∧ s.seq = 0) ∧
  (s.busy = true → ∃ o, s.op = some o ∧ s.seq ≤ o.items.length)

/-- The window registers of the receiver hold a rectangle inside the panel or nothing (R168, R169), and the pointer is inside
it (R171). -/
def WindowInv (cfg : Config) (r : PanelRegs) : Prop :=
  (∀ a b, r.xs = some a → r.xe = some b → a.toNat ≤ b.toNat ∧ b.toNat < cfg.width) ∧
  (∀ a b, r.ys = some a → r.ye = some b → a.toNat ≤ b.toNat ∧ b.toNat < cfg.height) ∧
  (r.cmd = some 0x2A#8 ∨ r.cmd = some 0x2B#8 → r.ptr = .none) ∧
  (∀ x y, r.ptr = .pos x y → ∃ xs xe ys ye, r.xs = some xs ∧ r.xe = some xe ∧ r.ys = some ys ∧ r.ye = some ye ∧
    x ≤ xe.toNat ∧ y ≤ ye.toNat)

/-- Both pixel memories and the bindings are in canonical form, and nothing lies outside the panel's rectangle (R50, R60). -/
def MemInv (s : State) : Prop :=
  s.canvas.wf ∧ s.canvas.below s.cfg.npix ∧ s.watcher.bindings.wf ∧
  ∀ r, s.panel.regs = some r → r.gram.wf ∧ r.gram.below s.cfg.npix ∧ WindowInv s.cfg r

/-- An event list keeps DC driven before every transfer (R36 c), never puts the backlight out (R36 d), and keeps it on and RESET
an output while the bus is open, started from these pins; only success opens the bus. -/
def itemsSound (isOpen : Bool) (p : Pins) : List Item → Bool
  | [] => true
  | it :: rest =>
    (match it.event with
      | .xfer _ => decide (p.dc = .driven .low ∨ p.dc = .driven .high)
      | _ => true) &&
    !decide (Edit.busOpen ∈ it.onFail) && !decide (it.event = .pin .backlight .low) &&
    (!(isOpen || decide (Edit.busOpen ∈ it.onOk)) ||
      decide ((pinsAfter it.event p).backlight = .driven .high ∧ (pinsAfter it.event p).reset ≠ .unconfigured)) &&
    itemsSound (isOpen || decide (Edit.busOpen ∈ it.onOk)) (pinsAfter it.event p) rest

/-- The pins and the trace agree (R36 c, d, R32): DC's level is the last one in the trace, no byte was sent under an undefined
DC, the backlight is on and RESET is an output while the bus is open, and what the running operation will still emit keeps it so. -/
def PinInv (s : State) : Prop :=
  (∀ lvl, s.pins.dc = .driven lvl → lastDc s.trace = some lvl) ∧
  (∀ p, p ∈ framed s.trace → p.1.isSome) ∧
  (s.busOpen = true → s.pins.backlight = .driven .high ∧ s.pins.reset ≠ .unconfigured) ∧
  (∀ o, s.op = some o → itemsSound s.busOpen s.pins (o.items.drop s.seq) = true)

/-- `err` holds a result of the block: ResourceUnavailableError is never one (60_exceptions.md R183). -/
def ErrInv (s : State) : Prop := s.err ≠ .resource

end Sys2Proof.Safety
end

