-- ==== Sys2Proof/Certificates/Slice0/Obligations.lean ====
section
/-! DEFINITION. The statements for the provers. Each docstring names the rule of spec/ it rests on. -/

open Sys2Proof Sys2Proof.Machine Sys2Proof.Safety

/-- The values at power-on (10_state.md R34). The canvas is unspecified: no position is written, and what reading one gives is
the free value of its index. The panel's own state is unspecified: the receiver is UNDEFINED. The configuration is the one
given at construction, its OPEN parameters free.
The free colour and the free bytes are the model's form of "unspecified" and OPEN (log 6, 7). -/
def Obligations.PowerOnState : Prop :=
  State.reset.cfg = Config.default ∧
  State.reset.cfg.madctlByte = Config.openMadctlByte ∧ State.reset.cfg.colmodByte = Config.openColmodByte ∧
  State.reset.busy = false ∧ State.reset.op = none ∧ State.reset.seq = 0 ∧ errCode State.reset.err = 0#2 ∧
  State.reset.race = false ∧ State.reset.busOpen = false ∧
  State.reset.pins.reset = .unconfigured ∧ State.reset.pins.dc = .unconfigured ∧
  State.reset.pins.backlight = .unconfigured ∧
  (∀ x y, State.reset.canvas.get (posIndex State.reset.cfg x y) = none ∧
    canvasAt State.reset.cfg State.reset.canvas x y =
      Colour.ofBits (Config.freeColour (posIndex State.reset.cfg x y))) ∧
  State.reset.shadow.power = .unknown ∧ State.reset.shadow.madctl = none ∧ State.reset.shadow.colmod = none ∧
  State.reset.shadow.displayOn = none ∧ State.reset.shadow.window = none ∧ State.reset.shadow.ramwr = false ∧
  State.reset.trace = [] ∧ (∀ pin, State.reset.watcher.bindings.get pin = none) ∧ State.reset.panel.regs = none

/-- A few codes of the opcode table are read as the instructions they stand for (30_encoding.md R73, R84, R74, R76).
The layout of the table's numbers is the model's choice (log 13). -/
def Obligations.TableCodesDecode : Prop :=
  decodeTableWord 8 0x11 = some (.sleepOut []) ∧
  decodeTableWord 8 0x2A = some (.colAddrSet [0, 0, 0, 0]) ∧
  decodeTableWord 8 0x3A = some (.pixelFormat [0]) ∧
  decodeTableWord 8 0x0 = some .setup ∧
  decodeTableWord 8 0x8 = some .present ∧
  decodeTableWord 8 0xD = some (.reserved0xC0xF 1) ∧
  decodeTableWord 16 0xF81F = some (.pixel 0xF81F) ∧
  decodeTableWord 32 0x000A00EF = some (.window 0x000A 0x00EF)

/-- Every well-formed instruction is read back from its encoding: no operand bit is dropped (30_encoding.md R73, R74, R76,
R84, 10_state.md R41).
The request formats and the range of the integer operands are the model's choice (log 13, 14). -/
def Obligations.DecodeEncodeRoundTrip : Prop :=
  ∀ i : Instr, i.wellFormed = true → decode (encode i) = .ok i

/-- What the decoder reads from a frame, a PIXEL or a WINDOW is written back byte for byte: no two byte sequences name one
instruction (30_encoding.md R71, R74, R76). -/
def Obligations.EncodeDecodeRoundTrip : Prop :=
  ∀ (r : Request) (i : Instr), decode r = .ok i → isHostop i = false → encode i = r

/-- The fields of the PIXEL word and its two bytes on the wire, high byte first (30_encoding.md R74, R75,
42_pixel_encoder.md R135). -/
def Obligations.PixelWordFields : Prop :=
  ∀ c : Colour,
    ((pack565 c).extractLsb' 11 5 = c.r.extractLsb' 3 5 ∧ (pack565 c).extractLsb' 5 6 = c.g.extractLsb' 2 6 ∧
      (pack565 c).extractLsb' 0 5 = c.b.extractLsb' 3 5) ∧
    bytes16 (pack565 c) = [(c.r &&& 0xF8#8) ||| (c.g >>> 5), ((c.g &&& 0x1C#8) <<< 3) ||| (c.b >>> 3)]

/-- Decoding a packed pixel masks the channels; two colours give one word exactly when their kept bits agree
(42_pixel_encoder.md R137, 30_encoding.md R89). -/
def Obligations.PixelRoundTrip : Prop :=
  (∀ c : Colour, unpack565 (pack565 c) = ⟨c.r &&& 0xF8#8, c.g &&& 0xFC#8, c.b &&& 0xF8#8⟩) ∧
  ∀ c d : Colour, pack565 c = pack565 d ↔
    c.r &&& 0xF8#8 = d.r &&& 0xF8#8 ∧ c.g &&& 0xFC#8 = d.g &&& 0xFC#8 ∧ c.b &&& 0xF8#8 = d.b &&& 0xF8#8

/-- The rotation laws (42_pixel_encoder.md R133, R140): range, each position read exactly once, inverse, order four, fixed
points, and the forward maps: the destination of a source position reads that source position. -/
def Obligations.RotationLaws : Prop :=
  ∀ n x y : Nat, x < n → y < n →
    (∀ rot, (rotSrc rot n n x y).1 < n ∧ (rotSrc rot n n x y).2 < n) ∧
    (∀ rot, ∃ p : Nat × Nat, (p.1 < n ∧ p.2 < n ∧ rotSrc rot n n p.1 p.2 = (x, y)) ∧
      ∀ q : Nat × Nat, q.1 < n → q.2 < n → rotSrc rot n n q.1 q.2 = (x, y) → q = p) ∧
    rotSrc .ccw90 n n (rotSrc .cw90 n n x y).1 (rotSrc .cw90 n n x y).2 = (x, y) ∧
    rotSrc .cw90 n n (rotSrc .ccw90 n n x y).1 (rotSrc .ccw90 n n x y).2 = (x, y) ∧
    (let t := fun p : Nat × Nat => rotSrc .cw90 n n p.1 p.2
     t (t (x, y)) = (n - 1 - x, n - 1 - y) ∧ t (t (t (t (x, y)))) = (x, y)) ∧
    (∀ rot, rotSrc rot n n x y = (x, y) ↔ 2 * x + 1 = n ∧ 2 * y + 1 = n) ∧
    rotDst .cw90 n n x y = (n - 1 - y, x) ∧ rotDst .ccw90 n n x y = (y, n - 1 - x) ∧
    ∀ rot, (rotDst rot n n x y).1 < n ∧ (rotDst rot n n x y).2 < n ∧
      rotSrc rot n n (rotDst rot n n x y).1 (rotDst rot n n x y).2 = (x, y)

/-- The pixel stream's length and the place of each pixel (42_pixel_encoder.md R136).
What is read where the canvas is not square is the model's choice (log 24). -/
def Obligations.EncodedStreamLayout : Prop :=
  ∀ (cfg : Config) (canvas : Memory Colour),
    (encodeCanvas cfg canvas).length = 2 * cfg.width * cfg.height ∧
    ∀ x y, x < cfg.width → y < cfg.height →
      (encodeCanvas cfg canvas)[2 * (y * cfg.width + x)]? =
        some ((pack565 (canvasAt cfg canvas (rotSrc cfg.rot cfg.width cfg.height x y).1
          (rotSrc cfg.rot cfg.width cfg.height x y).2)).extractLsb' 8 8) ∧
      (encodeCanvas cfg canvas)[2 * (y * cfg.width + x) + 1]? =
        some ((pack565 (canvasAt cfg canvas (rotSrc cfg.rot cfg.width cfg.height x y).1
          (rotSrc cfg.rot cfg.width cfg.height x y).2)).extractLsb' 0 8)

/-- The chunk law (40_bus_transport.md R102): the transfers join to the payload, there are `ceil(n / CHUNK_BYTES)` of them,
all of full length but the last, and the only other event is the one `PIN DC 1` before the first. -/
def Obligations.ChunkLaw : Prop :=
  ∀ (cfg : Config) (bs : List Byte), 1 ≤ cfg.chunkBytes →
    (chunks cfg bs).flatten = bs ∧
    (chunks cfg bs).length = (bs.length + cfg.chunkBytes - 1) / cfg.chunkBytes ∧
    (∀ k t, k + 1 < (chunks cfg bs).length → (chunks cfg bs)[k]? = some t → t.length = cfg.chunkBytes) ∧
    (∀ t, (chunks cfg bs).getLast? = some t →
      t.length = bs.length - ((chunks cfg bs).length - 1) * cfg.chunkBytes ∧ 1 ≤ t.length ∧
      t.length ≤ cfg.chunkBytes) ∧
    ∀ s, s.cfg = cfg → (askWriteDataBytes bs s).items.map Item.event =
      .pin .dc .high :: (chunks cfg bs).map Event.xfer

/-- A step of an idle block runs exactly the instruction that is presented, or the host's blocking call that comes next; it is
taken from its list and nothing else is added. While an operation runs either waits, and the sequencer steps.
The list of moves and what is presented are the model's choice (log 2, 12). -/
def Obligations.StepRunsTheInstruction : Prop :=
  (∀ (s : State) (r : Request) (rest : List Request) (i : Instr), Idle s → s.presented = r :: rest →
    decode r = .ok i → i.wellFormed = true → step s = exec i { s with presented := rest }) ∧
  (∀ (s : State) (p : HostPort) (rest : List Move) (i : Instr), Idle s → s.presented = [] →
    s.inputs = .call p :: rest → decode (.hostop p) = .ok i → step s = exec i { s with inputs := rest }) ∧
  ∀ s : State, s.race = false → s.busy = true → s.presented ≠ [] ∨ (∃ p rest, s.inputs = .call p :: rest) →
    step s = .next (tick s)

/-- WRITE_COMMAND_BYTE on an open bus (40_bus_transport.md R100, R104, 10_state.md R43): DC low whatever it was, the byte
alone in its transfer, the shadow as for a direct command, the panel takes one command byte; everything else is unchanged. -/
def Obligations.WriteCommandByteSends : Prop :=
  ∀ (s : State) (b : Byte), Idle s → s.busOpen = true → TransfersComplete s 1 →
    ∃ t, exec (.writeCommandByte b) s = .next t ∧ SentAll (.writeCommandByte b) s t ∧
      t.pins = { s.pins with dc := .driven .low } ∧ t.shadow = directShadow b s.shadow ∧
      t.panel = panelCommand s.cfg t.now b s.panel ∧ GramKept s t

/-- WRITE_DATA_BYTES on an open bus (40_bus_transport.md R101, R105, 10_state.md R43): DC high once, then the chunks; the
shadow is unchanged and the panel takes the payload as one data phase, whatever the chunk size; an empty payload sends no
transfer. -/
def Obligations.WriteDataBytesSends : Prop :=
  (∀ (s : State) (bs : List Byte), Idle s → s.busOpen = true →
    TransfersComplete s (xferCount (eventsOf (.writeDataBytes bs) s)) →
    ∃ t, exec (.writeDataBytes bs) s = .next t ∧ SentAll (.writeDataBytes bs) s t ∧
      t.pins = { s.pins with dc := .driven .high } ∧ t.shadow = s.shadow ∧
      t.panel = panelData s.cfg bs s.panel) ∧
  ∀ s, eventsOf (.writeDataBytes []) s = [.pin .dc .high]

/-- HARD_RESET (41_panel_controller.md R110, 10_state.md R42): six events, the shadow of a reset panel, RESET high; the
receiver is reset at the last rising edge, at least one settle time before the end, and the whole takes at least three.
The reset receiver is R163's, but that its `p.idx` is 0 and that no data byte is kept is the model's choice (log 25). -/
def Obligations.HardResetPulses : Prop :=
  ∀ s : State, Idle s → s.pins.reset ≠ .unconfigured →
    ∃ t, exec .hardReset s = .next t ∧ SentAll .hardReset s t ∧
      t.pins = { s.pins with reset := .driven .high } ∧
      t.shadow = ⟨.asleep, none, none, none, none, false⟩ ∧
      (∃ edge, edge + 1000 * s.cfg.resetSettleMs ≤ t.now ∧ t.panel = ⟨none, some (resetRegs s.cfg edge)⟩) ∧
      s.now + 3000 * s.cfg.resetSettleMs ≤ t.now

/-- INIT_SEQUENCE (41_panel_controller.md R112): the thirteen events, the framed stream `C:11 C:36 D:mm C:3A D:cc C:29`, the
shadow's record, at least the wake time. -/
def Obligations.InitSequenceBringsUp : Prop :=
  ∀ s : State, Idle s → s.busOpen = true → TransfersComplete s 6 →
    ∃ t, exec .initSequence s = .next t ∧ SentAll .initSequence s t ∧
      framed (eventsOf .initSequence s) = [cmdPair 0x11#8, cmdPair 0x36#8, (some .high, s.cfg.madctlByte),
        cmdPair 0x3A#8, (some .high, s.cfg.colmodByte), cmdPair 0x29#8] ∧
      t.pins = { s.pins with dc := .driven .low } ∧
      t.shadow = ⟨.awake, some s.cfg.madctlByte, some s.cfg.colmodByte, some true, s.shadow.window, false⟩ ∧
      s.now + 1000 * s.cfg.sleepOutMs ≤ t.now ∧ GramKept s t

/-- SET_ADDRESS_WINDOW within bounds (41_panel_controller.md R114, 30_encoding.md R76, R79): the column command with the x
pair, the row command with the y pair, each with four big-endian bytes, whatever the chunk size; the shadow's window. -/
def Obligations.SetAddressWindowSends : Prop :=
  ∀ (s : State) (x0 y0 x1 y1 : Int), Idle s → s.busOpen = true →
    0 ≤ x0 → x0 ≤ x1 → x1 < s.cfg.width → 0 ≤ y0 → y0 ≤ y1 → y1 < s.cfg.height →
    TransfersComplete s (xferCount (eventsOf (.setAddressWindow x0 y0 x1 y1) s)) →
    ∃ t, exec (.setAddressWindow x0 y0 x1 y1) s = .next t ∧ SentAll (.setAddressWindow x0 y0 x1 y1) s t ∧
      framed (eventsOf (.setAddressWindow x0 y0 x1 y1) s) =
        cmdPair 0x2A#8 :: dataPairs (windowBytes (BitVec.ofInt 16 x0) (BitVec.ofInt 16 x1)) ++
        cmdPair 0x2B#8 :: dataPairs (windowBytes (BitVec.ofInt 16 y0) (BitVec.ofInt 16 y1)) ∧
      t.pins = { s.pins with dc := .driven .high } ∧
      t.shadow = { s.shadow with window := some ⟨x0, y0, x1, y1⟩, ramwr := false } ∧ GramKept s t

/-- The bounds check (41_panel_controller.md R115): any of the six ways to fail ends the operation with ConfigurationError and
changes nothing else, whatever the bus; within bounds it is never raised.
That the check comes before the precondition on the bus is the model's reading (log 15). -/
def Obligations.WindowBoundsCheck : Prop :=
  ∀ (s : State) (x0 y0 x1 y1 : Int), Idle s → SeqInv s →
    (x0 < 0 ∨ x1 < x0 ∨ x1 ≥ s.cfg.width ∨ y0 < 0 ∨ y1 < y0 ∨ y1 ≥ s.cfg.height →
      exec (.setAddressWindow x0 y0 x1 y1) s = .next { s with err := .configuration }) ∧
    (¬(x0 < 0 ∨ x1 < x0 ∨ x1 ≥ s.cfg.width ∨ y0 < 0 ∨ y1 < y0 ∨ y1 ≥ s.cfg.height) →
      ∀ t, exec (.setAddressWindow x0 y0 x1 y1) s = .next t → t.busy = false → t.err ≠ .configuration)

/-- The full-frame window bytes (41_panel_controller.md R116). -/
def Obligations.FullFrameWindowBytes : Prop :=
  (∀ cfg : Config, 1 ≤ cfg.width → cfg.width ≤ 65536 → 1 ≤ cfg.height → cfg.height ≤ 65536 →
    columnBytes (fullWindow cfg) = [0x00#8, 0x00#8, (BitVec.ofNat 16 (cfg.width - 1)).extractLsb' 8 8,
      (BitVec.ofNat 16 (cfg.width - 1)).extractLsb' 0 8] ∧
    rowBytes (fullWindow cfg) = [0x00#8, 0x00#8, (BitVec.ofNat 16 (cfg.height - 1)).extractLsb' 8 8,
      (BitVec.ofNat 16 (cfg.height - 1)).extractLsb' 0 8]) ∧
  columnBytes (fullWindow Config.default) = [0x00#8, 0x00#8, 0x00#8, 0xEF#8] ∧
  rowBytes (fullWindow Config.default) = [0x00#8, 0x00#8, 0x00#8, 0xEF#8]

/-- BEGIN_RAM_WRITE (41_panel_controller.md R117): the command byte 0x2C and nothing else; `ramwr` is 1, the rest of the
shadow is unchanged. -/
def Obligations.BeginRamWriteSends : Prop :=
  ∀ s : State, Idle s → s.busOpen = true → TransfersComplete s 1 →
    ∃ t, exec .beginRamWrite s = .next t ∧ SentAll .beginRamWrite s t ∧
      t.pins = { s.pins with dc := .driven .low } ∧ t.shadow = { s.shadow with ramwr := true } ∧
      t.panel = panelCommand s.cfg t.now 0x2C#8 s.panel ∧ GramKept s t

/-- ENCODE on its own (42_pixel_encoder.md R130, R139): it returns the pixel stream of the canvas, needs no bus, and changes
nothing else.
The field that holds the returned bytes is the model's choice (log 9), and so are the bytes where the canvas is not square
(log 24). -/
def Obligations.EncodeReturnsStream : Prop :=
  ∀ s : State, Idle s → SeqInv s →
    exec .encode s = .next { s with encOut := encodeCanvas s.cfg s.canvas, err := .none }

/-- CLEAR (43_display_session.md R149): every canvas position holds the colour, no other position is written; nothing else
changes. -/
def Obligations.ClearFillsCanvas : Prop :=
  ∀ (s : State) (c : Colour), Idle s → SeqInv s →
    ∃ m : Memory Colour, exec (.clear c) s = .next { s with canvas := m, err := .none } ∧ m.wf ∧
      (∀ x y, x < s.cfg.width → y < s.cfg.height → canvasAt s.cfg m x y = c) ∧
      ∀ i, (m.get i).isSome ↔ i < s.cfg.npix

/-- DRAW (43_display_session.md R150): inside the canvas one position takes the colour and no other position changes;
outside it ConfigurationError with the canvas unchanged; nothing else changes. -/
def Obligations.DrawWritesOnePosition : Prop :=
  ∀ (s : State) (x y : Int) (c : Colour), Idle s → SeqInv s →
    (0 ≤ x ∧ x < s.cfg.width ∧ 0 ≤ y ∧ y < s.cfg.height →
      ∃ m : Memory Colour, exec (.draw x y c) s = .next { s with canvas := m, err := .none } ∧
        canvasAt s.cfg m x.toNat y.toNat = c ∧
        ∀ i, i ≠ posIndex s.cfg x.toNat y.toNat → m.get i = s.canvas.get i) ∧
    (¬(0 ≤ x ∧ x < s.cfg.width ∧ 0 ≤ y ∧ y < s.cfg.height) →
      exec (.draw x y c) s = .next { s with err := .configuration })

/-- PRESENT (43_display_session.md R146): the events of the expansion, the canvas unchanged, the shadow's window the full
frame and `ramwr` 1. -/
def Obligations.PresentSends : Prop :=
  ∀ s : State, Idle s → s.busOpen = true → TransfersComplete s (xferCount (eventsOf .present s)) →
    ∃ t, exec .present s = .next t ∧ SentAll .present s t ∧
      t.pins = { s.pins with dc := .driven .high } ∧
      t.shadow = { s.shadow with
        window := some ⟨0, 0, (s.cfg.width : Int) - 1, (s.cfg.height : Int) - 1⟩, ramwr := true }

/-- The wire image of a PRESENT (43_display_session.md R147): the framed stream of the events it asks for, their number when
`CHUNK_BYTES` is at least 4, and no delay among them. -/
def Obligations.PresentWireImage : Prop :=
  ∀ s : State, s.cfg.InRange →
    framed ((askPresent s).items.map Item.event) =
      cmdPair 0x2A#8 :: dataPairs (bytes16 0 ++ bytes16 (BitVec.ofNat 16 (s.cfg.width - 1))) ++
      cmdPair 0x2B#8 :: dataPairs (bytes16 0 ++ bytes16 (BitVec.ofNat 16 (s.cfg.height - 1))) ++
      cmdPair 0x2C#8 :: dataPairs (encodeCanvas s.cfg s.canvas) ∧
    (4 ≤ s.cfg.chunkBytes →
      (askPresent s).items.length = 11 + s.cfg.nchunk (2 * s.cfg.width * s.cfg.height)) ∧
    ∀ ms, Event.wait ms ∉ (askPresent s).items.map Item.event

/-- SETUP (43_display_session.md R145): the seven events, pins as configured, backlight on, the bus open; the panel, the
canvas and the shadow are not touched. -/
def Obligations.SetupOpensTheBus : Prop :=
  ∀ s : State, Idle s → s.busOpen = false → s.cfg.width = s.cfg.height → 1 ≤ s.cfg.width →
    (∀ k, k < 3 → callAnswer s.world k = true) →
    ∃ t, exec .setup s = .next t ∧ t.trace = s.trace ++ eventsOf .setup s ∧
      t.pins = ⟨.outUndriven, .outUndriven, .driven .high⟩ ∧ t.busOpen = true ∧ Ended t .none ∧
      t.canvas = s.canvas ∧ t.encOut = s.encOut ∧ t.shadow = s.shadow ∧ t.panel = s.panel ∧ Untouched s t

/-- A SETUP whose `k`-th SPI call fails (43_display_session.md R145): the calls before it stand in the trace, it and those
after it do not; TransportError; the bus stays closed and the backlight stays on. -/
def Obligations.SetupCallFails : Prop :=
  ∀ (s : State) (k : Nat), Idle s → s.busOpen = false → s.cfg.width = s.cfg.height → 1 ≤ s.cfg.width → k < 3 →
    (∀ j, j < k → callAnswer s.world j = true) → callAnswer s.world k = false →
    ∃ t, exec .setup s = .next t ∧ t.trace = s.trace ++ (eventsOf .setup s).take (4 + k) ∧
      t.pins = ⟨.outUndriven, .outUndriven, .driven .high⟩ ∧ Ended t .transport ∧ BlockKept s t ∧
      t.shadow = s.shadow ∧ t.panel = s.panel

/-- The reserved selects (30_encoding.md R85): codes 0xB to 0xF name no operation; a request with one of them changes
nothing but `err`, which becomes 1. -/
def Obligations.ReservedSelects : Prop :=
  (∀ p : HostPort, 0xB ≤ p.opSel.toNat →
    decode (.hostop p) = .ok .reserved0xB ∨ ∃ low, decode (.hostop p) = .ok (.reserved0xC0xF low)) ∧
  errCode .configuration = 1#2 ∧
  ∀ s : State, Idle s → SeqInv s →
    exec .reserved0xB s = .next { s with err := .configuration } ∧
    ∀ low, exec (.reserved0xC0xF low) s = .next { s with err := .configuration }

/-- ConfigurationError (60_exceptions.md R181): SET_ADDRESS_WINDOW, SETUP, DRAW and the reserved selects raise
it in the cases named, with no event and no change but `err`; no other operation raises it.
That it comes before the precondition on the bus, and before the refusal of a second SETUP, is the model's reading (log 15). -/
def Obligations.ConfigurationErrorCases : Prop :=
  ∀ (s : State) (i : Instr), Idle s → SeqInv s → isHostop i = true →
    ((∃ x0 y0 x1 y1, i = .setAddressWindow x0 y0 x1 y1 ∧
        ¬(0 ≤ x0 ∧ x0 ≤ x1 ∧ x1 < s.cfg.width ∧ 0 ≤ y0 ∧ y0 ≤ y1 ∧ y1 < s.cfg.height)) ∨
      (i = .setup ∧ (s.cfg.width ≠ s.cfg.height ∨ s.cfg.width < 1 ∨ s.cfg.height < 1)) ∨
      (∃ x y c, i = .draw x y c ∧ ¬(0 ≤ x ∧ x < s.cfg.width ∧ 0 ≤ y ∧ y < s.cfg.height)) ∨
      i = .reserved0xB ∨ (∃ low, i = .reserved0xC0xF low) →
      exec i s = .next { s with err := .configuration }) ∧
    ((∀ x0 y0 x1 y1, i ≠ .setAddressWindow x0 y0 x1 y1) ∧ i ≠ .setup ∧ (∀ x y c, i ≠ .draw x y c) ∧
      i ≠ .reserved0xB ∧ (∀ low, i ≠ .reserved0xC0xF low) →
      ∀ t, exec i s = .next t → t.busy = false → t.err ≠ .configuration)

/-- Before SETUP a bus operation has no meaning, nor has HARD_RESET while RESET is not an output, nor a second SETUP
(70_reset_and_hazards.md R211, 43_display_session.md R145); CLEAR, DRAW and ENCODE need no SETUP.
That each of these is a refusal, HARD_RESET's among them, is the model's reading (log 16). -/
def Obligations.RefusedWithoutSetup : Prop :=
  ∀ s : State, Idle s →
    (s.busOpen = false →
      exec .initSequence s = .refused .busNotOpen ∧ exec .beginRamWrite s = .refused .busNotOpen ∧
      (∀ b, exec (.writeCommandByte b) s = .refused .busNotOpen) ∧
      (∀ bs, exec (.writeDataBytes bs) s = .refused .busNotOpen) ∧
      exec .present s = .refused .busNotOpen ∧
      ∀ x0 y0 x1 y1, windowInBounds s.cfg ⟨x0, y0, x1, y1⟩ = true →
        exec (.setAddressWindow x0 y0 x1 y1) s = .refused .busNotOpen) ∧
    (s.pins.reset = .unconfigured → exec .hardReset s = .refused .resetPinUnconfigured) ∧
    (s.busOpen = true → s.cfg.width = s.cfg.height → 1 ≤ s.cfg.width → exec .setup s = .refused .alreadySetUp) ∧
    (∃ t, exec .encode s = .next t) ∧ (∀ c, ∃ t, exec (.clear c) s = .next t) ∧
    ∀ x y c, ∃ t, exec (.draw x y c) s = .next t

/-- Races (20_memory.md R63, 10_state.md R22): an operation issued while `busy` is 1 sets `race`, run or only started, and the
model says nothing more: every later step and instruction is refused.
Refusing what comes after a race, and counting a reserved select as an operation, are the model's choice (log 17). -/
def Obligations.RaceIsSticky : Prop :=
  (∀ (s : State) (i : Instr), isHostop i = true → s.race = false → s.busy = true →
    (∃ t, exec i s = .next t ∧ t.race = true) ∧ ∃ t, begin i s = .next t ∧ t.race = true) ∧
  (∀ (s : State) (i : Instr), s.race = true → exec i s = .refused .raced) ∧
  ∀ s : State, s.race = true → step s = .refused .raced

/-- A button edge whose callback calls the block while it is busy is a race; while it is idle the callback's first operation
starts, and its later ones are blocking calls (60_exceptions.md R193, 20_memory.md R62, R63). An edge on an unbound pin, or on
no button, does nothing.
The list of moves and a callback as a list of calls are the model's choice (log 2, 22). -/
def Obligations.CallbackMayRace : Prop :=
  (∀ (s : State) (button pin : Nat) (rest : List Move) (p : HostPort) (more : List HostPort) (i : Instr),
    s.race = false → s.presented = [] → s.inputs = .edge button :: rest → s.cfg.buttonPins[button]? = some pin →
    s.watcher.bindings.get pin = some (p :: more) → decode (.hostop p) = .ok i →
    ∃ t, step s = .next t ∧ t = { s with inputs := .async p :: (more.map Move.call ++ rest) } ∧
      (s.busy = true → ∃ u, step t = .next u ∧ u.race = true) ∧
      (s.busy = false → step t = begin i { t with inputs := more.map Move.call ++ rest })) ∧
  ∀ (s : State) (button : Nat) (rest : List Move), s.race = false → s.presented = [] → s.inputs = .edge button :: rest →
    (∀ pin, s.cfg.buttonPins[button]? = some pin → s.watcher.bindings.get pin = none) →
    step s = .next { s with inputs := rest }

/-- Registering and rebinding (60_exceptions.md R191, R195, 70_reset_and_hazards.md R227). A rebind: if a registration succeeds
at the first or the second try, the newest callback alone is bound to the pin; after two failures the pin is unbound and the
failure reported; no other pin and nothing of the block is touched. A registration without a clear fails on a pin that has one
and changes no binding. A move names a button, and acts on its pin.
The reported result, the call list, and that the old callback stays are the model's choice (log 22). -/
def Obligations.RebindReplaces : Prop :=
  (∀ (s : State) (pin : Nat) (cb : List HostPort),
    (registrationAnswer s.world 0 = true ∨ registrationAnswer s.world 1 = true →
      (rebindPin cb pin s).watcher.bindings.get pin = some cb ∧
      (rebindPin cb pin s).watcher.lastResult = some .bound) ∧
    (registrationAnswer s.world 0 = false ∧ registrationAnswer s.world 1 = false →
      (rebindPin cb pin s).watcher.bindings.get pin = none ∧
      (rebindPin cb pin s).watcher.lastResult = some .unavailable) ∧
    (registrationAnswer s.world 0 = true → (rebindPin cb pin s).watcher.gpio =
      s.watcher.gpio ++ [.clearEdgeDetection pin, .onFallingEdge pin cb s.cfg.debounceMs]) ∧
    (∀ q, q ≠ pin → (rebindPin cb pin s).watcher.bindings.get q = s.watcher.bindings.get q) ∧
    (rebindPin cb pin s).err = s.err ∧ (rebindPin cb pin s).trace = s.trace ∧
    (rebindPin cb pin s).canvas = s.canvas ∧ (rebindPin cb pin s).panel = s.panel) ∧
  (∀ (s : State) (pin : Nat) (cb : List HostPort),
    ((s.watcher.bindings.get pin).isSome ∨ registrationAnswer s.world 0 = false →
      (registerPin cb pin s).watcher.bindings = s.watcher.bindings ∧
      (registerPin cb pin s).watcher.lastResult = some .unavailable) ∧
    (s.watcher.bindings.get pin = none ∧ registrationAnswer s.world 0 = true →
      (registerPin cb pin s).watcher.bindings = s.watcher.bindings.set pin cb ∧
      (registerPin cb pin s).watcher.lastResult = some .bound)) ∧
  ∀ (s : State) (button pin : Nat) (cb : List HostPort) (rest : List Move), s.race = false → s.presented = [] →
    s.cfg.buttonPins[button]? = some pin →
    (s.inputs = .rebind button cb :: rest → step s = .next (rebindPin cb pin { s with inputs := rest })) ∧
    (s.inputs = .register button cb :: rest → step s = .next (registerPin cb pin { s with inputs := rest }))

/-- A command byte whose transfer fails (40_bus_transport.md R103, 10_state.md R27, R43): the DC event has happened, the byte
stands in the trace only if it was delivered, TransportError, `ramwr` keeps its value.
That `ramwr` keeps its value when any command byte fails is the model's reading (log 20). -/
def Obligations.CommandByteFails : Prop :=
  ∀ (s : State) (b : Byte) (k : Nat), Idle s → s.busOpen = true → transferAnswer s.world 0 = .fail k →
    ∃ t, exec (.writeCommandByte b) s = .next t ∧
      t.trace = s.trace ++ [.pin .dc .low] ++ (if k = 0 then [] else [.xfer [b]]) ∧
      t.pins = { s.pins with dc := .driven .low } ∧ t.shadow.ramwr = s.shadow.ramwr ∧
      Ended t .transport ∧ BlockKept s t ∧
      t.panel = (if k = 0 then s.panel else panelCommand s.cfg t.now b s.panel)

/-- The shadow after an INIT_SEQUENCE whose `j`-th transfer fails (10_state.md R27): the fields of the frames sent before are
recorded, the field of the frame that failed is UNKNOWN, the later ones are as before.
That `ramwr` keeps its value when the first command byte fails is the model's reading (log 20). -/
def Obligations.FailedInitShadow : Prop :=
  ∀ (s : State) (j k : Nat), Idle s → s.busOpen = true → j < 6 → TransfersComplete s j →
    transferAnswer s.world j = .fail k →
    ∃ t, exec .initSequence s = .next t ∧ Ended t .transport ∧ BlockKept s t ∧
      t.shadow.power = (if j = 0 then .unknown else .awake) ∧
      t.shadow.madctl = (if j = 0 then s.shadow.madctl else if j ≤ 2 then none else some s.cfg.madctlByte) ∧
      t.shadow.colmod = (if j ≤ 2 then s.shadow.colmod else if j ≤ 4 then none else some s.cfg.colmodByte) ∧
      t.shadow.displayOn = (if j ≤ 4 then s.shadow.displayOn else none) ∧
      t.shadow.window = s.shadow.window ∧ t.shadow.ramwr = (if j = 0 then s.shadow.ramwr else false)

/-- The shadow after a SET_ADDRESS_WINDOW or PRESENT whose `j`-th transfer fails (41_panel_controller.md R114,
43_display_session.md R148, 10_state.md R27): while the window is being sent it is UNKNOWN; a PRESENT that fails later keeps the
full-frame window; `ramwr` is 1 once 0x2C has been sent; nothing else of the shadow or of the block moves.
That `ramwr` keeps its value when the first command byte fails is the model's reading (log 20). -/
def Obligations.FailedWindowShadow : Prop :=
  ∀ (s : State) (i : Instr) (w : Window) (j k : Nat), Idle s → s.busOpen = true →
    (i = .present ∧ w = fullWindow s.cfg) ∨
      (i = .setAddressWindow w.x0 w.y0 w.x1 w.y1 ∧ windowInBounds s.cfg w = true) →
    j < xferCount (eventsOf i s) → TransfersComplete s j → transferAnswer s.world j = .fail k →
    ∃ t, exec i s = .next t ∧ Ended t .transport ∧ BlockKept s t ∧
      t.shadow = { s.shadow with
        window := if j < xferCount (windowEvents s.cfg w) then none else some w
        ramwr := if j = 0 then s.shadow.ramwr else decide (xferCount (windowEvents s.cfg w) < j) }

/-- Errors are precise with respect to wire events (60_exceptions.md R185, 40_bus_transport.md R103): after a TransportError
the trace has grown by the events before the failing call, in full, and by a non-empty prefix of the failing transfer's bytes
or nothing; `busy` and `seq` are 0; canvas, configuration and returned bytes are as before.
A failed BEGIN_RAM_WRITE or WRITE_DATA_BYTES leaves the shadow as it was (10_state.md R27). -/
def Obligations.TransportErrorsArePrecise : Prop :=
  ∀ (s : State) (i : Instr) (t : State), Idle s → isHostop i = true → exec i s = .next t → t.busy = false →
    t.err = .transport →
    ∃ k e, (eventsOf i s)[k]? = some e ∧
      ((∃ bs m, e = .xfer bs ∧ bs.take m ≠ [] ∧ t.trace = s.trace ++ (eventsOf i s).take k ++ [.xfer (bs.take m)]) ∨
        t.trace = s.trace ++ (eventsOf i s).take k) ∧
      ((∃ bs, e = .xfer bs) ∨ (∃ a b, e = .spiOpen a b) ∨ (∃ a, e = .spiClk a) ∨ ∃ a, e = .spiMode a) ∧
      Ended t .transport ∧ BlockKept s t ∧
      (i = .beginRamWrite ∨ (∃ bs, i = .writeDataBytes bs) → t.shadow = s.shadow)

/-- A stalled transfer (70_reset_and_hazards.md R229): the block stays at `busy = 1` with `seq` unchanged for ever, however
often it steps, while the host is blocked in its call.
That the pending answer is never consumed is the model's form of a hang (log 18). -/
def Obligations.StalledBlockStays : Prop :=
  ∀ (s : State) (o : Running) (it : Item) (bs : List Byte), s.race = false → s.busy = true → s.op = some o →
    o.items[s.seq]? = some it → it.event = .xfer bs → transferAnswer s.world 0 = .never →
    (∀ m ∈ s.inputs, ∃ p, m = .call p) → ∀ n, Sys2Proof.core.run n s = .next s

/-- One step of the sequencer (10_state.md R21): it emits event number `seq` of the list fixed at the start and counts it;
when the list is done it completes; while idle nothing happens.
That completion is a step of its own is the model's choice (log 27). -/
def Obligations.TickEmitsOneEvent : Prop :=
  (∀ (s : State) (o : Running) (it : Item), s.busy = true → s.op = some o → o.items[s.seq]? = some it →
    (∀ bs, it.event = .xfer bs → transferAnswer s.world 0 = .complete) →
    ((∃ a b, it.event = .spiOpen a b) ∨ (∃ a, it.event = .spiClk a) ∨ (∃ a, it.event = .spiMode a) →
      callAnswer s.world 0 = true) →
    (tick s).trace = s.trace ++ [it.event] ∧ (tick s).seq = s.seq + 1 ∧ (tick s).busy = true ∧
    (tick s).op = some o ∧ (tick s).err = s.err) ∧
  (∀ (s : State) (o : Running), s.busy = true → s.op = some o → s.seq = o.items.length →
    tick s = { s with busy := false, op := none, seq := 0, err := .none }) ∧
  ∀ s : State, s.busy = false → tick s = s

/-- An operation run in one call is the same operation started and stepped event by event (10_state.md R21, 30_encoding.md
R86): the call ends where some number of sequencer steps from the start ends, and the two refuse alike.
Running an operation in one call is the model's form of a blocking call (log 1). -/
def Obligations.CallIsStartThenTicks : Prop :=
  ∀ (s : State) (i : Instr), Idle s → isHostop i = true →
    (∀ t, exec i s = .next t → ∃ t0 n, begin i s = .next t0 ∧ tick^[n] t0 = t) ∧
    (∀ r, exec i s = .refused r ↔ begin i s = .refused r) ∧
    ∀ f, exec i s ≠ .fault f ∧ begin i s ≠ .fault f

/-- READY (70_reset_and_hazards.md R214, 10_state.md R28): it holds once SETUP, HARD_RESET and INIT_SEQUENCE have all
completed with no error, and every instruction keeps it but HARD_RESET, a failed INIT_SEQUENCE and a direct command byte
other than 0x2A, 0x2B, 0x2C. -/
def Obligations.ReadyAfterBringUp : Prop :=
  (∀ s t1 t2 t3 : State, Idle s → exec .setup s = .next t1 → Ended t1 .none → exec .hardReset t1 = .next t2 →
    Ended t2 .none → exec .initSequence t2 = .next t3 → Ended t3 .none → ready t3 = true) ∧
  ∀ (s t : State) (i : Instr), ready s = true → exec i s = .next t → i ≠ .hardReset →
    (i = .initSequence → Ended t .none) →
    (∀ b, i = .writeCommandByte b → b = 0x2A#8 ∨ b = 0x2B#8 ∨ b = 0x2C#8) → ready t = true

/-- No operation reads the shadow or `err` (10_state.md R22, R26): with another shadow and another `err` every instruction has
the same outcome, and the next states differ in those two fields only. -/
def Obligations.ShadowAndErrNeverRead : Prop :=
  ∀ (s : State) (i : Instr) (sh : Shadow) (e : ErrClass),
    (∀ t, exec i s = .next t → ∃ t', exec i { s with shadow := sh, err := e } = .next t' ∧
      { t' with shadow := t.shadow, err := t.err } = t) ∧
    ∀ r, exec i s = .refused r → exec i { s with shadow := sh, err := e } = .refused r

/-- The trace only grows, and it alone feeds the panel (10_state.md R31, R33, R23, 60_exceptions.md R204): a step appends events
at times in order; with nothing presented to the receiver from outside a run it presents nothing, and the pins and the panel
after it are what they were before it with exactly those events taken in order.
What is presented from outside a run is the model's choice (log 12), and so is the unit of time (log 5). -/
def Obligations.TraceGrowsAndFeedsPanel : Prop :=
  ∀ s t : State, step s = .next t → ∃ es : List (Nat × Event), t.trace = s.trace ++ es.map Prod.snd ∧
    (es.map Prod.fst).Pairwise (· ≤ ·) ∧ (∀ e, e ∈ es → s.now ≤ e.1 ∧ e.1 ≤ t.now) ∧
    (s.presented = [] → t.presented = [] ∧ (t.pins, t.panel) = hear s.cfg es (s.pins, s.panel))

/-- The configuration never changes (10_state.md R25, R36), on any step. -/
def Obligations.ConfigurationFixed : Prop := ∀ s t : State, step s = .next t → t.cfg = s.cfg

/-- Only CLEAR and DRAW write the canvas (10_state.md R24, 20_memory.md R50): no other instruction changes it, and no step of
the sequencer does. -/
def Obligations.OnlyClearAndDrawWriteCanvas : Prop :=
  (∀ (s t : State) (i : Instr), (∀ c, i ≠ .clear c) → (∀ x y c, i ≠ .draw x y c) → exec i s = .next t →
    t.canvas = s.canvas) ∧
  ∀ s : State, (tick s).canvas = s.canvas

/-- INVARIANT. The sequencer position (10_state.md R21): nothing runs and `seq` is 0 while `busy` is 0; while it is 1 an
operation is named and `seq` does not pass its list. Every step keeps it. -/
def Obligations.SequencerPositionKept : Prop := ∀ s t : State, SeqInv s → step s = .next t → SeqInv t

/-- INVARIANT. The canonical form of the memories, nothing outside the rectangle, and the receiver's window and pointer inside
the panel (20_memory.md R50, R60, 44_wire_commands.md R168, R171). Every step keeps it. -/
def Obligations.MemoriesKept : Prop :=
  ∀ s t : State, MemInv s → step s = .next t → MemInv t

/-- INVARIANT. DC is driven before every byte group and agrees with the trace, the backlight is on while the bus is open and
is never put out (10_state.md R36 c, d, R32). Every step keeps it. -/
def Obligations.PinsKept : Prop := ∀ s t : State, PinInv s → step s = .next t → PinInv t

/-- The invariants hold at power-on (10_state.md R34). -/
def Obligations.InvariantsAtPowerOn : Prop :=
  SeqInv State.reset ∧ MemInv State.reset ∧ PinInv State.reset ∧ ErrInv State.reset

/-- Once SETUP has completed the backlight is on for ever (10_state.md R36 d): every step keeps the bus open and the pin
high. Once driven high the pin stays so on every step, a further SETUP after one that failed among them.
That configuring the pin again leaves its level is the model's reading of R145 (log 28). -/
def Obligations.BacklightStaysOn : Prop :=
  ∀ s t : State, PinInv s → step s = .next t →
    (s.busOpen = true → t.busOpen = true ∧ t.pins.backlight = .driven .high) ∧
    (s.pins.backlight = .driven .high → t.pins.backlight = .driven .high)

/-- INVARIANT. ResourceUnavailableError never stands in `err` (60_exceptions.md R183). Every step keeps it. -/
def Obligations.NoResourceError : Prop := ∀ s t : State, ErrInv s → step s = .next t → ErrInv t

/-- What a WIRE, PIXEL or WINDOW row does as a whole (44_wire_commands.md R161, R162, R172): its bytes reach the receiver in
order at the next moment, a frame's command byte first; nothing of the block changes; transfer boundaries are not seen; an
UNDEFINED receiver stays so.
That these rows reach the receiver directly is the model's reading of them (log 12). -/
def Obligations.BytesReachThePanel : Prop :=
  (∀ s : State, s.race = false →
    (∀ c data i, decode (.wire (c :: data)) = .ok i →
      exec i s = .next (withPanel s (panelData s.cfg data (panelCommand s.cfg (arrival s) c s.panel)))) ∧
    (∀ v : Word16, exec (.pixel v) s =
      .next (withPanel s (panelData s.cfg [v.extractLsb' 8 8, v.extractLsb' 0 8] s.panel))) ∧
    (∀ a b : Word16, exec (.window a b) s = .next (withPanel s (panelData s.cfg
      [a.extractLsb' 8 8, a.extractLsb' 0 8, b.extractLsb' 8 8, b.extractLsb' 0 8] s.panel)))) ∧
  (∀ (cfg : Config) (a b : List Byte) (p : Panel), panelData cfg (a ++ b) p = panelData cfg b (panelData cfg a p)) ∧
  ∀ (s t : State) (i : Instr), s.panel.regs = none → isHostop i = false → exec i s = .next t → t.panel.regs = none

/-- SLEEP_OUT at the panel (44_wire_commands.md R164, R165, R162): in time it wakes the receiver and sets the time before
which no command is valid; any data byte in its frame makes the receiver UNDEFINED. A command byte also ends the frame
before it: one that has not had all of its data bytes leaves UNSET the register it was writing, any other leaves the receiver as
it was.
Which registers such a frame leaves UNSET is the model's reading (log 26). -/
def Obligations.SleepOutWakes : Prop :=
  (∀ (s : State) (r : PanelRegs) (d : Byte) (ds : List Byte), s.race = false → s.panel.regs = some r →
    r.tOk ≤ arrival s →
    exec (.sleepOut []) s = .next (withPanel s ⟨s.panel.lowSince, some { endFrame r with
      mode := .awake, tOk := arrival s + 1000 * s.cfg.sleepOutMs, cmd := some 0x11#8, idx := 0, args := [],
      latch := none }⟩) ∧
    exec (.sleepOut (d :: ds)) s = .next (withPanel s ⟨s.panel.lowSince, none⟩)) ∧
  ∀ r : PanelRegs,
    (r.cmd = some 0x36#8 → r.idx = 0 → endFrame r = { r with madctl := none }) ∧
    (r.cmd = some 0x3A#8 → r.idx = 0 → endFrame r = { r with colmod := none }) ∧
    (r.cmd = some 0x2A#8 → r.idx < 4 → endFrame r = { r with xs := none, xe := none }) ∧
    (r.cmd = some 0x2B#8 → r.idx < 4 → endFrame r = { r with ys := none, ye := none }) ∧
    (¬((r.cmd = some 0x36#8 ∨ r.cmd = some 0x3A#8) ∧ r.idx = 0) ∧
      ¬((r.cmd = some 0x2A#8 ∨ r.cmd = some 0x2B#8) ∧ r.idx < 4) → endFrame r = r)

/-- DISPLAY_ON, MEM_ACCESS_CTL and PIXEL_FORMAT at an awake panel, in time (44_wire_commands.md R173, R166, R167): the
register they write, and UNDEFINED on a data byte too many. -/
def Obligations.RegisterCommandsWrite : Prop :=
  ∀ (s : State) (r : PanelRegs) (d d' : Byte) (ds : List Byte), s.race = false → s.panel.regs = some r →
    r.mode = .awake → r.tOk ≤ arrival s →
    exec (.displayOn []) s = .next (withPanel s ⟨s.panel.lowSince, some { endFrame r with
      dispOn := some true, cmd := some 0x29#8, idx := 0, args := [], latch := none }⟩) ∧
    exec (.displayOn (d :: ds)) s = .next (withPanel s ⟨s.panel.lowSince, none⟩) ∧
    exec (.memAccessCtl []) s = .next (withPanel s ⟨s.panel.lowSince, some { endFrame r with
      cmd := some 0x36#8, idx := 0, args := [], latch := none }⟩) ∧
    exec (.memAccessCtl [d]) s = .next (withPanel s ⟨s.panel.lowSince, some { endFrame r with
      madctl := some d, cmd := some 0x36#8, idx := 1, args := [], latch := none }⟩) ∧
    exec (.memAccessCtl (d :: d' :: ds)) s = .next (withPanel s ⟨s.panel.lowSince, none⟩) ∧
    exec (.pixelFormat []) s = .next (withPanel s ⟨s.panel.lowSince, some { endFrame r with
      cmd := some 0x3A#8, idx := 0, args := [], latch := none }⟩) ∧
    exec (.pixelFormat [d]) s = .next (withPanel s ⟨s.panel.lowSince, some { endFrame r with
      colmod := some d, cmd := some 0x3A#8, idx := 1, args := [], latch := none }⟩) ∧
    exec (.pixelFormat (d :: d' :: ds)) s = .next (withPanel s ⟨s.panel.lowSince, none⟩)

/-- COL_ADDR_SET and ROW_ADDR_SET at an awake panel, in time (44_wire_commands.md R168, R169): four data bytes set the start
and the end, big-endian, unless they are out of order or outside the panel; before d3 the pair is UNSET; a fifth byte makes
the receiver UNDEFINED. -/
def Obligations.AddressSetStores : Prop :=
  ∀ (s : State) (r : PanelRegs) (a b : Word16) (ds : List Byte), s.race = false → s.panel.regs = some r →
    r.mode = .awake → r.tOk ≤ arrival s →
    exec (.colAddrSet (windowBytes a b)) s = .next (withPanel s ⟨s.panel.lowSince,
      if a.toNat ≤ b.toNat ∧ b.toNat < s.cfg.width then some { endFrame r with
        xs := some a, xe := some b, ptr := .none, cmd := some 0x2A#8, idx := 4, args := windowBytes a b, latch := none }
      else none⟩) ∧
    exec (.rowAddrSet (windowBytes a b)) s = .next (withPanel s ⟨s.panel.lowSince,
      if a.toNat ≤ b.toNat ∧ b.toNat < s.cfg.height then some { endFrame r with
        ys := some a, ye := some b, ptr := .none, cmd := some 0x2B#8, idx := 4, args := windowBytes a b, latch := none }
      else none⟩) ∧
    (ds.length < 4 →
      exec (.colAddrSet ds) s = .next (withPanel s ⟨s.panel.lowSince, some { endFrame r with
        xs := none, xe := none, ptr := .none, cmd := some 0x2A#8, idx := ds.length, args := ds, latch := none }⟩) ∧
      exec (.rowAddrSet ds) s = .next (withPanel s ⟨s.panel.lowSince, some { endFrame r with
        ys := none, ye := none, ptr := .none, cmd := some 0x2B#8, idx := ds.length, args := ds, latch := none }⟩)) ∧
    (4 < ds.length →
      exec (.colAddrSet ds) s = .next (withPanel s ⟨s.panel.lowSince, none⟩) ∧
      exec (.rowAddrSet ds) s = .next (withPanel s ⟨s.panel.lowSince, none⟩))

/-- MEM_WRITE at the panel, in time (44_wire_commands.md R170, R171): awake, in the 16-bit format and with a window set it
starts at the window's first position; otherwise the receiver is UNDEFINED, and so it stays whatever data follow; the data
bytes of the frame go on from there. -/
def Obligations.MemWriteStartsAtWindow : Prop :=
  ∀ (s : State) (r : PanelRegs), s.race = false → s.panel.regs = some r → r.tOk ≤ arrival s →
    (∀ xs xe ys ye, r.mode = .awake → (endFrame r).colmod = some s.cfg.colmodByte →
      (endFrame r).xs = some xs → (endFrame r).xe = some xe → (endFrame r).ys = some ys → (endFrame r).ye = some ye →
      exec (.memWrite []) s = .next (withPanel s ⟨s.panel.lowSince, some { endFrame r with
        ptr := .pos xs.toNat ys.toNat, cmd := some 0x2C#8, idx := 0, args := [], latch := none }⟩)) ∧
    (¬(r.mode = .awake ∧ (endFrame r).colmod = some s.cfg.colmodByte ∧ (endFrame r).xs.isSome ∧
        (endFrame r).xe.isSome ∧ (endFrame r).ys.isSome ∧ (endFrame r).ye.isSome) →
      ∀ data, exec (.memWrite data) s = .next (withPanel s ⟨s.panel.lowSince, none⟩)) ∧
    ∀ t data, exec (.memWrite []) s = .next t →
      exec (.memWrite data) s = .next { t with panel := panelData s.cfg data t.panel }

/-- A PIXEL in a memory-write data phase (44_wire_commands.md R171, R172, R167): in another format than the configured one the
receiver is UNDEFINED; otherwise with no byte latched the word lands at the pointer, which moves in row-major order inside
the window; with a high byte latched that byte and the first of the two make the word and the second is latched; past the
window's end the receiver is UNDEFINED. No other position changes. -/
def Obligations.PixelLandsAndAdvances : Prop :=
  ∀ (s : State) (r : PanelRegs) (v : Word16) (h : Byte) (x y : Nat) (xs xe ye : Word16), s.race = false →
    s.panel.regs = some r → r.cmd = some 0x2C#8 →
    (r.colmod ≠ some s.cfg.colmodByte → exec (.pixel v) s = .next (withPanel s ⟨s.panel.lowSince, none⟩)) ∧
    (r.colmod = some s.cfg.colmodByte → r.xs = some xs → r.xe = some xe → r.ye = some ye →
    (r.ptr = .pos x y → r.latch = none →
      exec (.pixel v) s = .next (withPanel s ⟨s.panel.lowSince, some { r with
        gram := r.gram.set (y * s.cfg.width + x) v, idx := r.idx + 2,
        ptr := if x < xe.toNat then .pos (x + 1) y else if y < ye.toNat then .pos xs.toNat (y + 1) else .pastEnd }⟩) ∧
      (r.gram.set (y * s.cfg.width + x) v).get (y * s.cfg.width + x) = some v ∧
      ∀ i, i ≠ y * s.cfg.width + x → (r.gram.set (y * s.cfg.width + x) v).get i = r.gram.get i) ∧
    (r.ptr = .pos x y → r.latch = some h →
      exec (.pixel v) s = .next (withPanel s ⟨s.panel.lowSince, some { r with
        gram := r.gram.set (y * s.cfg.width + x) (h ++ v.extractLsb' 8 8), latch := some (v.extractLsb' 0 8),
        idx := r.idx + 2,
        ptr := if x < xe.toNat then .pos (x + 1) y else if y < ye.toNat then .pos xs.toNat (y + 1) else .pastEnd }⟩)) ∧
    (r.ptr = .pastEnd → exec (.pixel v) s = .next (withPanel s ⟨s.panel.lowSince, none⟩)))

/-- A WINDOW after the command byte of an address-set frame (44_wire_commands.md R168, R169, 20_memory.md R52): the start and
the end are stored, or the receiver is UNDEFINED if they are out of order or outside the panel. -/
def Obligations.WindowBytesLand : Prop :=
  ∀ (s : State) (r : PanelRegs) (a b : Word16), s.race = false → s.panel.regs = some r → r.idx = 0 → r.args = [] →
    (r.cmd = some 0x2A#8 → exec (.window a b) s = .next (withPanel s ⟨s.panel.lowSince,
      if a.toNat ≤ b.toNat ∧ b.toNat < s.cfg.width then
        some { r with xs := some a, xe := some b, idx := 4, args := windowBytes a b } else none⟩)) ∧
    (r.cmd = some 0x2B#8 → exec (.window a b) s = .next (withPanel s ⟨s.panel.lowSince,
      if a.toNat ≤ b.toNat ∧ b.toNat < s.cfg.height then
        some { r with ys := some a, ye := some b, idx := 4, args := windowBytes a b } else none⟩))

/-- Where the receiver becomes UNDEFINED (44_wire_commands.md R162, R163, R165, R174): a command byte too early, any command but
SLEEP_OUT while asleep, a command that is not one of the seven, a data byte with no frame, a reset pulse that is too short. A
long enough pulse gives any receiver the values of R163; a fall alone, or a rise of a line that is not low, gives it none.
That a foreign frame can be presented to the machine (log 21), that of several falls the first starts the pulse, and that
`p.idx` is 0 and no data byte is kept after it (log 25), are the model's. -/
def Obligations.ReceiverUndefinedCases : Prop :=
  (∀ (cfg : Config) (now t : Nat) (dc : PinState) (regs : Option PanelRegs),
    panelSee cfg now dc (.pin .reset .low) ⟨none, regs⟩ = ⟨some now, regs⟩ ∧
    panelSee cfg now dc (.pin .reset .low) ⟨some t, regs⟩ = ⟨some t, regs⟩ ∧
    panelSee cfg now dc (.pin .reset .high) ⟨none, regs⟩ = ⟨none, regs⟩ ∧
    (now < t + 1000 * cfg.resetSettleMs →
      panelSee cfg now dc (.pin .reset .high) ⟨some t, regs⟩ = ⟨none, none⟩) ∧
    (t + 1000 * cfg.resetSettleMs ≤ now →
      panelSee cfg now dc (.pin .reset .high) ⟨some t, regs⟩ = ⟨none, some
        { mode := .sleep, tOk := now + 1000 * cfg.resetSettleMs, madctl := none, colmod := none, dispOn := none
          xs := none, xe := none, ys := none, ye := none, cmd := none, idx := 0, args := [], ptr := .none
          latch := none, gram := [] }⟩)) ∧
  ∀ (cfg : Config) (now : Nat) (c d : Byte) (r : PanelRegs) (low : Option Nat),
    (now < r.tOk → panelCommand cfg now c ⟨low, some r⟩ = ⟨low, none⟩) ∧
    (r.mode = .sleep → c ≠ 0x11#8 → panelCommand cfg now c ⟨low, some r⟩ = ⟨low, none⟩) ∧
    (c ≠ 0x11#8 ∧ c ≠ 0x29#8 ∧ c ≠ 0x2A#8 ∧ c ≠ 0x2B#8 ∧ c ≠ 0x2C#8 ∧ c ≠ 0x36#8 ∧ c ≠ 0x3A#8 →
      panelCommand cfg now c ⟨low, some r⟩ = ⟨low, none⟩ ∧
      ∀ (s : State) (ds : List Byte) (rest : List Request), Idle s → s.presented = .wire (c :: ds) :: rest →
        ∃ t, step s = .next t ∧ t.panel.regs = none) ∧
    (r.cmd = none → panelData cfg [d] ⟨low, some r⟩ = ⟨low, none⟩)

/-- UNDEFINED is sticky (44_wire_commands.md R161, R163): a step that leads out of it has put `PIN RESET 1` on the wire at a time
`rise`, and RESET had fallen at a time `fall` at least one settle time before that and not risen since. The fall was before the
step, as the receiver keeps it, or is an event of the step. The receiver after the step is what the step's events make of it.
That of several falls in a row the first starts the pulse is the model's reading (log 25). -/
def Obligations.UndefinedUntilResetPulse : Prop :=
  ∀ s t : State, s.panel.regs = none → step s = .next t → t.panel.regs ≠ none →
    ∃ (before later : List (Nat × Event)) (fall rise : Nat),
      (let es := before ++ (rise, Event.pin .reset .high) :: later
       t.trace = s.trace ++ es.map Prod.snd ∧ (t.pins, t.panel) = hear s.cfg es (s.pins, s.panel) ∧
         (es.map Prod.fst).Pairwise (· ≤ ·) ∧ ∀ e, e ∈ es → s.now ≤ e.1 ∧ e.1 ≤ t.now) ∧
      (hear s.cfg before (s.pins, s.panel)).2 = ⟨some fall, none⟩ ∧ fall + 1000 * s.cfg.resetSettleMs ≤ rise ∧
      ((s.panel.lowSince = some fall ∧ ∀ e, e ∈ before → e.2 ≠ .pin .reset .high) ∨
        ∃ a b, before = a ++ (fall, Event.pin .reset .low) :: b ∧ ∀ e, e ∈ b → e.2 ≠ .pin .reset .high)

/-- PRESENT fills the panel (44_wire_commands.md R175, R171, 42_pixel_encoder.md R136): on an initialised panel, in time, a
PRESENT whose transfers all complete leaves every position with the packed colour of the rotated canvas, the window the full
frame, the pointer past its end, no half pixel, and the other registers as they were. -/
def Obligations.PresentFillsPanel : Prop :=
  ∀ (s : State) (r : PanelRegs), Idle s → s.busOpen = true → s.cfg.InRange →
    TransfersComplete s (xferCount (eventsOf .present s)) → s.panel.regs = some r → r.mode = .awake → r.tOk ≤ s.now →
    r.colmod = some s.cfg.colmodByte → FrameDone r →
    ∃ t r', exec .present s = .next t ∧ t.panel = ⟨s.panel.lowSince, some r'⟩ ∧
      r'.mode = .awake ∧ r'.madctl = r.madctl ∧ r'.colmod = r.colmod ∧ r'.dispOn = r.dispOn ∧
      r'.xs = some 0 ∧ r'.xe = some (BitVec.ofNat 16 (s.cfg.width - 1)) ∧
      r'.ys = some 0 ∧ r'.ye = some (BitVec.ofNat 16 (s.cfg.height - 1)) ∧
      r'.ptr = .pastEnd ∧ r'.latch = none ∧
      (∀ x y, x < s.cfg.width → y < s.cfg.height → r'.gram.get (posIndex s.cfg x y) =
        some (pack565 (canvasAt s.cfg s.canvas (rotSrc s.cfg.rot s.cfg.width s.cfg.height x y).1
          (rotSrc s.cfg.rot s.cfg.width s.cfg.height x y).2))) ∧
      ∀ i, s.cfg.npix ≤ i → r'.gram.get i = r.gram.get i

/-- The end-to-end law (44_wire_commands.md R175). HARD_RESET, INIT_SEQUENCE and PRESENT end without error if their transfers
complete. All three without error, they leave the receiver awake, configured, with the full-frame window, and every position
holding the packed colour of the rotated canvas; any further successful PRESENT does so again for the canvas of that moment,
with any number of canvas writes, windows and successful or failed PRESENTs in between. -/
def Obligations.EndToEnd : Prop :=
  (∀ s : State, Idle s → s.busOpen = true → s.pins.reset ≠ .unconfigured →
    TransfersComplete s (6 + xferCount (eventsOf .present s)) →
    ∃ t1 t2 t3, exec .hardReset s = .next t1 ∧ Ended t1 .none ∧ exec .initSequence t1 = .next t2 ∧ Ended t2 .none ∧
      exec .present t2 = .next t3 ∧ Ended t3 .none) ∧
  ∀ s t1 t2 t3 : State, Idle s → s.busOpen = true → s.cfg.InRange → CanvasWritten s →
    exec .hardReset s = .next t1 → Ended t1 .none → exec .initSequence t1 = .next t2 → Ended t2 .none →
    exec .present t2 = .next t3 → Ended t3 .none →
    (∃ r, t3.panel = ⟨none, some r⟩ ∧ r.mode = .awake ∧ r.madctl = some s.cfg.madctlByte ∧
      r.colmod = some s.cfg.colmodByte ∧ r.dispOn = some true ∧
      r.xs = some 0 ∧ r.xe = some (BitVec.ofNat 16 (s.cfg.width - 1)) ∧
      r.ys = some 0 ∧ r.ye = some (BitVec.ofNat 16 (s.cfg.height - 1)) ∧ r.ptr = .pastEnd ∧
      Shows s.cfg s.canvas r) ∧
    ∀ t t4 : State, Between t3 t → exec .present t = .next t4 → Ended t4 .none →
      ∃ r, t4.panel.regs = some r ∧ Shows s.cfg t.canvas r
end

