-- ==== Sys2Proof/Laws/Decode.lean ====
section
/-! SUPPORT. The laws of the fields: 16-bit values and their bytes, the colour port, signed ports, the pixel word. -/

namespace Sys2Proof

@[simp] theorem hiByte_word16 (a b : Byte) : hiByte (word16 a b) = a := by
  unfold hiByte word16
  rw [BitVec.extractLsb'_append_eq_ite]; simp

@[simp] theorem loByte_word16 (a b : Byte) : loByte (word16 a b) = b := by
  unfold loByte word16
  rw [BitVec.extractLsb'_append_eq_ite]; simp

/-- The two bytes of a 16-bit value make it up again (00_scope.md R10). -/
@[simp] theorem word16_split (v : Word16) : word16 (hiByte v) (loByte v) = v := by
  unfold hiByte loByte word16
  apply BitVec.eq_of_getLsbD_eq
  intro i hi
  simp only [BitVec.getLsbD_append, BitVec.getLsbD_extractLsb']
  interval_cases i <;> simp

@[simp] theorem bytes16_word16 (a b : Byte) : bytes16 (word16 a b) = [a, b] := by
  simp [bytes16]

/-- A triple is what its port carries (10_state.md R37). -/
@[simp] theorem Colour.ofBits_toBits (c : Colour) : Colour.ofBits c.toBits = c := by
  obtain ⟨r, g, b⟩ := c
  simp only [Colour.ofBits, Colour.toBits, Colour.mk.injEq]
  refine ⟨?_, ?_, ?_⟩ <;> apply BitVec.eq_of_getLsbD_eq <;> intro i hi <;>
    simp only [BitVec.getLsbD_append, BitVec.getLsbD_extractLsb'] <;> interval_cases i <;> simp

/-- An integer in the port's range is unchanged by the port's wrap (10_state.md R41). -/
theorem bmod_port {v : Int} (h : portInt v = true) : v.bmod 65536 = v := by
  simp [portInt] at h
  exact Int.bmod_eq_of_le (by omega) (by omega)

/-- An integer in the port's range is what the port carries (10_state.md R41). -/
theorem toInt_port {v : Int} (h : portInt v = true) : (BitVec.ofInt 16 v).toInt = v := by
  rw [BitVec.toInt_ofInt]; exact bmod_port h

end Sys2Proof
end

