-- ==== Sys2Proof/Laws/Memory.lean ====
section
/-! SUPPORT. The laws of the sparse memories: a read after a write, every other place left alone, and the canonical form
kept by every operation. -/

namespace Sys2Proof.Machine

variable {α : Type}

theorem Memory.get_set_same (i : Nat) (v : α) (m : Memory α) : (m.set i v).get i = some v := by
  induction m with
  | nil => simp [Memory.set, Memory.get]
  | cons e rest ih =>
    obtain ⟨j, w⟩ := e
    rcases Nat.lt_trichotomy i j with h | h | h
    · simp [Memory.set, Memory.get, h]
    · simp [Memory.set, Memory.get, h]
    · have h1 : ¬ i < j := by omega
      have h2 : i ≠ j := by omega
      simp [Memory.set, Memory.get, h1, h2, ih]

theorem Memory.get_set_other {i k : Nat} (h : k ≠ i) (v : α) (m : Memory α) : (m.set i v).get k = m.get k := by
  induction m with
  | nil => simp [Memory.set, Memory.get, h]
  | cons e rest ih =>
    obtain ⟨j, w⟩ := e
    unfold Memory.set
    split
    · simp [Memory.get, h]
    · split
      · rename_i h1; subst h1; simp [Memory.get, h]
      · simp [Memory.get, ih]

theorem Memory.mem_set {i : Nat} {v : α} {m : Memory α} {e : Nat × α} (h : e ∈ m.set i v) : e = (i, v) ∨ e ∈ m := by
  induction m with
  | nil => simpa [Memory.set] using h
  | cons a rest ih =>
    unfold Memory.set at h
    split at h
    · simpa using h
    · split at h
      · rcases List.mem_cons.mp h with h | h
        · exact .inl h
        · exact .inr (List.mem_cons_of_mem _ h)
      · rcases List.mem_cons.mp h with h | h
        · exact .inr (h ▸ List.mem_cons_self)
        · rcases ih h with h | h
          · exact .inl h
          · exact .inr (List.mem_cons_of_mem _ h)

/-- The canonical form, entry by entry. -/
theorem Memory.wf_cons {a : Nat × α} {m : Memory α} :
    Memory.wf (a :: m) ↔ (∀ e ∈ m, a.1 < e.1) ∧ m.wf := by
  simp only [Memory.wf, List.map_cons, List.pairwise_cons, List.forall_mem_map]

theorem Memory.set_wf {m : Memory α} (h : m.wf) (i : Nat) (v : α) : (m.set i v).wf := by
  induction m with
  | nil => simp [Memory.set, Memory.wf]
  | cons a rest ih =>
    obtain ⟨j, w⟩ := a
    have hw := Memory.wf_cons.mp h
    unfold Memory.set
    split
    · rename_i hij
      refine Memory.wf_cons.mpr ⟨fun e he => ?_, h⟩
      rcases List.mem_cons.mp he with he | he
      · subst he; exact hij
      · have := hw.1 e he; simp only at this ⊢; omega
    · split
      · rename_i hij
        subst hij
        exact Memory.wf_cons.mpr hw
      · refine Memory.wf_cons.mpr ⟨fun e he => ?_, ih hw.2⟩
        rcases Memory.mem_set he with he | he
        · subst he; simp only; omega
        · exact hw.1 e he

theorem Memory.set_below {n : Nat} {m : Memory α} (h : m.below n) {i : Nat} (hi : i < n) (v : α) : (m.set i v).below n := by
  intro e he
  rcases Memory.mem_set he with he | he
  · subst he; exact hi
  · exact h e he

theorem Memory.erase_wf {m : Memory α} (h : m.wf) (i : Nat) : (m.erase i).wf :=
  List.Pairwise.sublist (List.Sublist.map _ List.filter_sublist) h

/-- Removing from a list whose head is known. -/
theorem Memory.erase_cons (i j : Nat) (w : α) (m : Memory α) :
    Memory.erase i ((j, w) :: m) = if j = i then Memory.erase i m else (j, w) :: Memory.erase i m := by
  by_cases h : j = i <;> simp [Memory.erase, h]

theorem Memory.get_erase_same (i : Nat) (m : Memory α) : (m.erase i).get i = none := by
  induction m with
  | nil => rfl
  | cons a rest ih =>
    obtain ⟨j, w⟩ := a
    rw [Memory.erase_cons]
    split
    · exact ih
    · rename_i h
      have h' : i ≠ j := fun e => h e.symm
      simp [Memory.get, h', ih]

theorem Memory.get_erase_other {i k : Nat} (h : k ≠ i) (m : Memory α) : (m.erase i).get k = m.get k := by
  induction m with
  | nil => rfl
  | cons a rest ih =>
    obtain ⟨j, w⟩ := a
    rw [Memory.erase_cons]
    split
    · rename_i h1
      have h' : k ≠ j := fun e => h (e.trans h1)
      simp [Memory.get, h', ih]
    · simp [Memory.get, ih]

theorem Memory.fill_wf (n : Nat) (v : α) : (Memory.fill n v).wf := by
  simpa [Memory.fill, Memory.wf, Function.comp_def] using List.pairwise_lt_range

theorem Memory.fill_below (n : Nat) (v : α) : (Memory.fill n v).below n := by
  intro e he
  simp only [Memory.fill, List.mem_map, List.mem_range] at he
  obtain ⟨i, hi, rfl⟩ := he
  exact hi

theorem Memory.get_map (l : List Nat) (v : α) (i : Nat) :
    Memory.get (l.map (fun k => (k, v))) i = if i ∈ l then some v else none := by
  induction l with
  | nil => rfl
  | cons k l ih =>
    by_cases h : i = k
    · simp [Memory.get, h]
    · simp [Memory.get, h, ih]

theorem Memory.get_fill (n : Nat) (v : α) (i : Nat) :
    (Memory.fill n v).get i = if i < n then some v else none := by
  simp [Memory.fill, Memory.get_map]

/-- A position inside the rectangle has an index below the number of positions (00_scope.md R12). -/
theorem posIndex_lt {cfg : Config} {x y : Nat} (hx : x < cfg.width) (hy : y < cfg.height) :
    posIndex cfg x y < cfg.npix := by
  have h : (y + 1) * cfg.width ≤ cfg.height * cfg.width := Nat.mul_le_mul_right _ hy
  unfold posIndex Config.npix
  rw [Nat.mul_comm cfg.width]
  have : (y + 1) * cfg.width = y * cfg.width + cfg.width := Nat.succ_mul y cfg.width
  omega

/-- Different positions inside the rectangle have different indices. -/
theorem posIndex_inj {cfg : Config} {x y x' y' : Nat} (hx : x < cfg.width) (hx' : x' < cfg.width)
    (h : posIndex cfg x y = posIndex cfg x' y') : x = x' ∧ y = y' := by
  unfold posIndex at h
  have hw : 0 < cfg.width := by omega
  have h1 : (y * cfg.width + x) % cfg.width = x := by simp [Nat.mod_eq_of_lt hx]
  have h2 : (y' * cfg.width + x') % cfg.width = x' := by simp [Nat.mod_eq_of_lt hx']
  have hxx : x = x' := by rw [← h1, ← h2, h]
  subst hxx
  have : y * cfg.width = y' * cfg.width := by omega
  exact ⟨rfl, Nat.eq_of_mul_eq_mul_right hw this⟩

end Sys2Proof.Machine
end

