-- ==== Sys2Proof/Laws/Operands.lean ====
section
/-! SUPPORT. The laws of the operand forms: a payload's chunks join to the payload, and the place of a byte in the pixel
stream. -/

namespace Sys2Proof.Machine

theorem piecesOf_flatten (c fuel : Nat) (bs : List Byte) (h : bs.length ≤ fuel) : (piecesOf c fuel bs).flatten = bs := by
  induction fuel generalizing bs with
  | zero => simp at h; subst h; rfl
  | succ n ih =>
    cases bs with
    | nil => rfl
    | cons b rest =>
      simp only [piecesOf, List.flatten_cons]
      rw [ih _ (by simp at h ⊢; omega)]; simp

/-- The transfers of a payload join to the payload (40_bus_transport.md R102). -/
@[simp] theorem chunks_flatten (cfg : Config) (bs : List Byte) : (chunks cfg bs).flatten = bs :=
  piecesOf_flatten _ _ _ le_rfl

@[simp] theorem chunks_nil (cfg : Config) : chunks cfg [] = [] := rfl

@[simp] theorem chunks_singleton (cfg : Config) (b : Byte) : chunks cfg [b] = [[b]] := by simp [chunks, piecesOf]

/-- A payload that fits one transfer goes in one. -/
theorem chunks_single {cfg : Config} {bs : List Byte} (h : bs ≠ []) (hl : bs.length ≤ cfg.chunkBytes) :
    chunks cfg bs = [bs] := by
  cases bs with
  | nil => exact absurd rfl h
  | cons b rest =>
    have h1 : rest.length ≤ cfg.chunkBytes - 1 := by simp at hl; omega
    simp only [chunks, List.length_cons, piecesOf, List.take_of_length_le h1, List.drop_of_length_le h1]
    cases rest.length <;> rfl

/-- Rows of equal length: how long they are together. -/
theorem length_flatMap_range {α : Type} (f : Nat → List α) (k : Nat) (h : ∀ x, (f x).length = k) (n : Nat) :
    ((List.range n).flatMap f).length = k * n := by
  induction n with
  | zero => simp
  | succ n ih => rw [List.range_succ, List.flatMap_append, List.length_append, ih]; simp [h]; rw [Nat.mul_succ]

/-- Rows of equal length: where an element of a row stands. -/
theorem getElem?_flatMap_range {α : Type} (f : Nat → List α) (k : Nat) (h : ∀ x, (f x).length = k) {n i j : Nat}
    (hi : i < n) (hj : j < k) : ((List.range n).flatMap f)[k * i + j]? = (f i)[j]? := by
  induction n with
  | zero => omega
  | succ n ih =>
    rw [List.range_succ, List.flatMap_append]
    by_cases hin : i < n
    · rw [List.getElem?_append_left]
      · exact ih hin
      · rw [length_flatMap_range f k h]
        calc k * i + j < k * i + k := by omega
          _ = k * (i + 1) := by ring
          _ ≤ k * n := Nat.mul_le_mul_left _ hin
    · have : i = n := by omega
      subst this
      rw [List.getElem?_append_right] <;> rw [length_flatMap_range f k h]
      · simp
      · omega

end Sys2Proof.Machine
end

