-- ==== Sys2Proof/Laws/State.lean ====
section
/-! SUPPORT. What each named operation does to each field of State, once for every later proof. -/

namespace Sys2Proof.Machine

@[simp] theorem raise_eq (e : ErrClass) (s : State) : raise e s = endOp e s := rfl
@[simp] theorem complete_eq (s : State) : complete s = endOp .none s := rfl


/-! Fields after `emit`. -/
@[simp] theorem emit_cfg (e : Event) (s : State) : (emit e s).cfg = s.cfg := rfl
@[simp] theorem emit_busy (e : Event) (s : State) : (emit e s).busy = s.busy := rfl
@[simp] theorem emit_op (e : Event) (s : State) : (emit e s).op = s.op := rfl
@[simp] theorem emit_seq (e : Event) (s : State) : (emit e s).seq = s.seq := rfl
@[simp] theorem emit_err (e : Event) (s : State) : (emit e s).err = s.err := rfl
@[simp] theorem emit_race (e : Event) (s : State) : (emit e s).race = s.race := rfl
@[simp] theorem emit_busOpen (e : Event) (s : State) : (emit e s).busOpen = s.busOpen := rfl
@[simp] theorem emit_pins (e : Event) (s : State) : (emit e s).pins = pinsAfter e s.pins := rfl
@[simp] theorem emit_canvas (e : Event) (s : State) : (emit e s).canvas = s.canvas := rfl
@[simp] theorem emit_shadow (e : Event) (s : State) : (emit e s).shadow = s.shadow := rfl
@[simp] theorem emit_trace (e : Event) (s : State) : (emit e s).trace = s.trace ++ [e] := rfl
@[simp] theorem emit_encOut (e : Event) (s : State) : (emit e s).encOut = s.encOut := rfl
@[simp] theorem emit_panel (e : Event) (s : State) : (emit e s).panel = panelSee s.cfg (eventTime e s) s.pins.dc e s.panel := rfl
@[simp] theorem emit_now (e : Event) (s : State) : (emit e s).now = eventTime e s := rfl
@[simp] theorem emit_world (e : Event) (s : State) : (emit e s).world = { s.world with gaps := s.world.gaps.advance } := rfl
@[simp] theorem emit_watcher (e : Event) (s : State) : (emit e s).watcher = s.watcher := rfl
@[simp] theorem emit_presented (e : Event) (s : State) : (emit e s).presented = s.presented := rfl
@[simp] theorem emit_inputs (e : Event) (s : State) : (emit e s).inputs = s.inputs := rfl

/-! Fields after `applyEdits`. -/
@[simp] theorem applyEdits_cfg (es : List Edit) (s : State) : (applyEdits es s).cfg = s.cfg := rfl
@[simp] theorem applyEdits_busy (es : List Edit) (s : State) : (applyEdits es s).busy = s.busy := rfl
@[simp] theorem applyEdits_op (es : List Edit) (s : State) : (applyEdits es s).op = s.op := rfl
@[simp] theorem applyEdits_seq (es : List Edit) (s : State) : (applyEdits es s).seq = s.seq := rfl
@[simp] theorem applyEdits_err (es : List Edit) (s : State) : (applyEdits es s).err = s.err := rfl
@[simp] theorem applyEdits_race (es : List Edit) (s : State) : (applyEdits es s).race = s.race := rfl
@[simp] theorem applyEdits_busOpen (es : List Edit) (s : State) : (applyEdits es s).busOpen = (s.busOpen || decide (Edit.busOpen ∈ es)) := rfl
@[simp] theorem applyEdits_pins (es : List Edit) (s : State) : (applyEdits es s).pins = s.pins := rfl
@[simp] theorem applyEdits_canvas (es : List Edit) (s : State) : (applyEdits es s).canvas = s.canvas := rfl
@[simp] theorem applyEdits_shadow (es : List Edit) (s : State) : (applyEdits es s).shadow = es.foldl editShadow s.shadow := rfl
@[simp] theorem applyEdits_trace (es : List Edit) (s : State) : (applyEdits es s).trace = s.trace := rfl
@[simp] theorem applyEdits_encOut (es : List Edit) (s : State) : (applyEdits es s).encOut = s.encOut := rfl
@[simp] theorem applyEdits_panel (es : List Edit) (s : State) : (applyEdits es s).panel = s.panel := rfl
@[simp] theorem applyEdits_now (es : List Edit) (s : State) : (applyEdits es s).now = s.now := rfl
@[simp] theorem applyEdits_world (es : List Edit) (s : State) : (applyEdits es s).world = s.world := rfl
@[simp] theorem applyEdits_watcher (es : List Edit) (s : State) : (applyEdits es s).watcher = s.watcher := rfl
@[simp] theorem applyEdits_presented (es : List Edit) (s : State) : (applyEdits es s).presented = s.presented := rfl
@[simp] theorem applyEdits_inputs (es : List Edit) (s : State) : (applyEdits es s).inputs = s.inputs := rfl

/-! Fields after `endOp`. -/
@[simp] theorem endOp_cfg (e : ErrClass) (s : State) : (endOp e s).cfg = s.cfg := rfl
@[simp] theorem endOp_busy (e : ErrClass) (s : State) : (endOp e s).busy = false := rfl
@[simp] theorem endOp_op (e : ErrClass) (s : State) : (endOp e s).op = none := rfl
@[simp] theorem endOp_seq (e : ErrClass) (s : State) : (endOp e s).seq = 0 := rfl
@[simp] theorem endOp_err (e : ErrClass) (s : State) : (endOp e s).err = e := rfl
@[simp] theorem endOp_race (e : ErrClass) (s : State) : (endOp e s).race = s.race := rfl
@[simp] theorem endOp_busOpen (e : ErrClass) (s : State) : (endOp e s).busOpen = s.busOpen := rfl
@[simp] theorem endOp_pins (e : ErrClass) (s : State) : (endOp e s).pins = s.pins := rfl
@[simp] theorem endOp_canvas (e : ErrClass) (s : State) : (endOp e s).canvas = s.canvas := rfl
@[simp] theorem endOp_shadow (e : ErrClass) (s : State) : (endOp e s).shadow = s.shadow := rfl
@[simp] theorem endOp_trace (e : ErrClass) (s : State) : (endOp e s).trace = s.trace := rfl
@[simp] theorem endOp_encOut (e : ErrClass) (s : State) : (endOp e s).encOut = s.encOut := rfl
@[simp] theorem endOp_panel (e : ErrClass) (s : State) : (endOp e s).panel = s.panel := rfl
@[simp] theorem endOp_now (e : ErrClass) (s : State) : (endOp e s).now = s.now := rfl
@[simp] theorem endOp_world (e : ErrClass) (s : State) : (endOp e s).world = s.world := rfl
@[simp] theorem endOp_watcher (e : ErrClass) (s : State) : (endOp e s).watcher = s.watcher := rfl
@[simp] theorem endOp_presented (e : ErrClass) (s : State) : (endOp e s).presented = s.presented := rfl
@[simp] theorem endOp_inputs (e : ErrClass) (s : State) : (endOp e s).inputs = s.inputs := rfl

/-! Fields after `startOp`. -/
@[simp] theorem startOp_cfg (i : Instr) (is : List Item) (s : State) : (startOp i is s).cfg = s.cfg := rfl
@[simp] theorem startOp_busy (i : Instr) (is : List Item) (s : State) : (startOp i is s).busy = true := rfl
@[simp] theorem startOp_op (i : Instr) (is : List Item) (s : State) : (startOp i is s).op = some ⟨i, is⟩ := rfl
@[simp] theorem startOp_seq (i : Instr) (is : List Item) (s : State) : (startOp i is s).seq = 0 := rfl
@[simp] theorem startOp_err (i : Instr) (is : List Item) (s : State) : (startOp i is s).err = s.err := rfl
@[simp] theorem startOp_race (i : Instr) (is : List Item) (s : State) : (startOp i is s).race = s.race := rfl
@[simp] theorem startOp_busOpen (i : Instr) (is : List Item) (s : State) : (startOp i is s).busOpen = s.busOpen := rfl
@[simp] theorem startOp_pins (i : Instr) (is : List Item) (s : State) : (startOp i is s).pins = s.pins := rfl
@[simp] theorem startOp_canvas (i : Instr) (is : List Item) (s : State) : (startOp i is s).canvas = s.canvas := rfl
@[simp] theorem startOp_shadow (i : Instr) (is : List Item) (s : State) : (startOp i is s).shadow = s.shadow := rfl
@[simp] theorem startOp_trace (i : Instr) (is : List Item) (s : State) : (startOp i is s).trace = s.trace := rfl
@[simp] theorem startOp_encOut (i : Instr) (is : List Item) (s : State) : (startOp i is s).encOut = s.encOut := rfl
@[simp] theorem startOp_panel (i : Instr) (is : List Item) (s : State) : (startOp i is s).panel = s.panel := rfl
@[simp] theorem startOp_now (i : Instr) (is : List Item) (s : State) : (startOp i is s).now = s.now := rfl
@[simp] theorem startOp_world (i : Instr) (is : List Item) (s : State) : (startOp i is s).world = s.world := rfl
@[simp] theorem startOp_watcher (i : Instr) (is : List Item) (s : State) : (startOp i is s).watcher = s.watcher := rfl
@[simp] theorem startOp_presented (i : Instr) (is : List Item) (s : State) : (startOp i is s).presented = s.presented := rfl
@[simp] theorem startOp_inputs (i : Instr) (is : List Item) (s : State) : (startOp i is s).inputs = s.inputs := rfl

/-! Fields after `setRace`. -/
@[simp] theorem setRace_cfg (s : State) : (setRace s).cfg = s.cfg := rfl
@[simp] theorem setRace_busy (s : State) : (setRace s).busy = s.busy := rfl
@[simp] theorem setRace_op (s : State) : (setRace s).op = s.op := rfl
@[simp] theorem setRace_seq (s : State) : (setRace s).seq = s.seq := rfl
@[simp] theorem setRace_err (s : State) : (setRace s).err = s.err := rfl
@[simp] theorem setRace_race (s : State) : (setRace s).race = true := rfl
@[simp] theorem setRace_busOpen (s : State) : (setRace s).busOpen = s.busOpen := rfl
@[simp] theorem setRace_pins (s : State) : (setRace s).pins = s.pins := rfl
@[simp] theorem setRace_canvas (s : State) : (setRace s).canvas = s.canvas := rfl
@[simp] theorem setRace_shadow (s : State) : (setRace s).shadow = s.shadow := rfl
@[simp] theorem setRace_trace (s : State) : (setRace s).trace = s.trace := rfl
@[simp] theorem setRace_encOut (s : State) : (setRace s).encOut = s.encOut := rfl
@[simp] theorem setRace_panel (s : State) : (setRace s).panel = s.panel := rfl
@[simp] theorem setRace_now (s : State) : (setRace s).now = s.now := rfl
@[simp] theorem setRace_world (s : State) : (setRace s).world = s.world := rfl
@[simp] theorem setRace_watcher (s : State) : (setRace s).watcher = s.watcher := rfl
@[simp] theorem setRace_presented (s : State) : (setRace s).presented = s.presented := rfl
@[simp] theorem setRace_inputs (s : State) : (setRace s).inputs = s.inputs := rfl

/-! Fields after `takeTransferAnswer`. -/
@[simp] theorem takeTransferAnswer_cfg (s : State) : (takeTransferAnswer s).cfg = s.cfg := rfl
@[simp] theorem takeTransferAnswer_busy (s : State) : (takeTransferAnswer s).busy = s.busy := rfl
@[simp] theorem takeTransferAnswer_op (s : State) : (takeTransferAnswer s).op = s.op := rfl
@[simp] theorem takeTransferAnswer_seq (s : State) : (takeTransferAnswer s).seq = s.seq := rfl
@[simp] theorem takeTransferAnswer_err (s : State) : (takeTransferAnswer s).err = s.err := rfl
@[simp] theorem takeTransferAnswer_race (s : State) : (takeTransferAnswer s).race = s.race := rfl
@[simp] theorem takeTransferAnswer_busOpen (s : State) : (takeTransferAnswer s).busOpen = s.busOpen := rfl
@[simp] theorem takeTransferAnswer_pins (s : State) : (takeTransferAnswer s).pins = s.pins := rfl
@[simp] theorem takeTransferAnswer_canvas (s : State) : (takeTransferAnswer s).canvas = s.canvas := rfl
@[simp] theorem takeTransferAnswer_shadow (s : State) : (takeTransferAnswer s).shadow = s.shadow := rfl
@[simp] theorem takeTransferAnswer_trace (s : State) : (takeTransferAnswer s).trace = s.trace := rfl
@[simp] theorem takeTransferAnswer_encOut (s : State) : (takeTransferAnswer s).encOut = s.encOut := rfl
@[simp] theorem takeTransferAnswer_panel (s : State) : (takeTransferAnswer s).panel = s.panel := rfl
@[simp] theorem takeTransferAnswer_now (s : State) : (takeTransferAnswer s).now = s.now := rfl
@[simp] theorem takeTransferAnswer_world (s : State) : (takeTransferAnswer s).world = { s.world with transfers := s.world.transfers.advance } := rfl
@[simp] theorem takeTransferAnswer_watcher (s : State) : (takeTransferAnswer s).watcher = s.watcher := rfl
@[simp] theorem takeTransferAnswer_presented (s : State) : (takeTransferAnswer s).presented = s.presented := rfl
@[simp] theorem takeTransferAnswer_inputs (s : State) : (takeTransferAnswer s).inputs = s.inputs := rfl

/-! Fields after `takeCallAnswer`. -/
@[simp] theorem takeCallAnswer_cfg (s : State) : (takeCallAnswer s).cfg = s.cfg := rfl
@[simp] theorem takeCallAnswer_busy (s : State) : (takeCallAnswer s).busy = s.busy := rfl
@[simp] theorem takeCallAnswer_op (s : State) : (takeCallAnswer s).op = s.op := rfl
@[simp] theorem takeCallAnswer_seq (s : State) : (takeCallAnswer s).seq = s.seq := rfl
@[simp] theorem takeCallAnswer_err (s : State) : (takeCallAnswer s).err = s.err := rfl
@[simp] theorem takeCallAnswer_race (s : State) : (takeCallAnswer s).race = s.race := rfl
@[simp] theorem takeCallAnswer_busOpen (s : State) : (takeCallAnswer s).busOpen = s.busOpen := rfl
@[simp] theorem takeCallAnswer_pins (s : State) : (takeCallAnswer s).pins = s.pins := rfl
@[simp] theorem takeCallAnswer_canvas (s : State) : (takeCallAnswer s).canvas = s.canvas := rfl
@[simp] theorem takeCallAnswer_shadow (s : State) : (takeCallAnswer s).shadow = s.shadow := rfl
@[simp] theorem takeCallAnswer_trace (s : State) : (takeCallAnswer s).trace = s.trace := rfl
@[simp] theorem takeCallAnswer_encOut (s : State) : (takeCallAnswer s).encOut = s.encOut := rfl
@[simp] theorem takeCallAnswer_panel (s : State) : (takeCallAnswer s).panel = s.panel := rfl
@[simp] theorem takeCallAnswer_now (s : State) : (takeCallAnswer s).now = s.now := rfl
@[simp] theorem takeCallAnswer_world (s : State) : (takeCallAnswer s).world = { s.world with calls := s.world.calls.advance } := rfl
@[simp] theorem takeCallAnswer_watcher (s : State) : (takeCallAnswer s).watcher = s.watcher := rfl
@[simp] theorem takeCallAnswer_presented (s : State) : (takeCallAnswer s).presented = s.presented := rfl
@[simp] theorem takeCallAnswer_inputs (s : State) : (takeCallAnswer s).inputs = s.inputs := rfl

/-! Fields after `succeed`. -/
@[simp] theorem succeed_cfg (it : Item) (s : State) : (succeed it s).cfg = s.cfg := rfl
@[simp] theorem succeed_busy (it : Item) (s : State) : (succeed it s).busy = s.busy := rfl
@[simp] theorem succeed_op (it : Item) (s : State) : (succeed it s).op = s.op := rfl
@[simp] theorem succeed_seq (it : Item) (s : State) : (succeed it s).seq = s.seq + 1 := rfl
@[simp] theorem succeed_err (it : Item) (s : State) : (succeed it s).err = s.err := rfl
@[simp] theorem succeed_race (it : Item) (s : State) : (succeed it s).race = s.race := rfl
@[simp] theorem succeed_busOpen (it : Item) (s : State) : (succeed it s).busOpen = (s.busOpen || decide (Edit.busOpen ∈ it.onOk)) := rfl
@[simp] theorem succeed_pins (it : Item) (s : State) : (succeed it s).pins = pinsAfter it.event s.pins := rfl
@[simp] theorem succeed_canvas (it : Item) (s : State) : (succeed it s).canvas = s.canvas := rfl
@[simp] theorem succeed_shadow (it : Item) (s : State) : (succeed it s).shadow = it.onOk.foldl editShadow s.shadow := rfl
@[simp] theorem succeed_trace (it : Item) (s : State) : (succeed it s).trace = s.trace ++ [it.event] := rfl
@[simp] theorem succeed_encOut (it : Item) (s : State) : (succeed it s).encOut = s.encOut := rfl
@[simp] theorem succeed_panel (it : Item) (s : State) : (succeed it s).panel = panelSee s.cfg (eventTime it.event s) s.pins.dc it.event s.panel := rfl
@[simp] theorem succeed_now (it : Item) (s : State) : (succeed it s).now = eventTime it.event s := rfl
@[simp] theorem succeed_world (it : Item) (s : State) : (succeed it s).world = { s.world with gaps := s.world.gaps.advance } := rfl
@[simp] theorem succeed_watcher (it : Item) (s : State) : (succeed it s).watcher = s.watcher := rfl
@[simp] theorem succeed_presented (it : Item) (s : State) : (succeed it s).presented = s.presented := rfl
@[simp] theorem succeed_inputs (it : Item) (s : State) : (succeed it s).inputs = s.inputs := rfl

/-! Fields after `latch`. -/
@[simp] theorem latch_cfg (a : Ask) (s : State) : (latch a s).cfg = s.cfg := rfl
@[simp] theorem latch_busy (a : Ask) (s : State) : (latch a s).busy = true := rfl
@[simp] theorem latch_op (a : Ask) (s : State) : (latch a s).op = some ⟨a.instr, a.items⟩ := rfl
@[simp] theorem latch_seq (a : Ask) (s : State) : (latch a s).seq = 0 := rfl
@[simp] theorem latch_err (a : Ask) (s : State) : (latch a s).err = s.err := rfl
@[simp] theorem latch_race (a : Ask) (s : State) : (latch a s).race = s.race := rfl
@[simp] theorem latch_busOpen (a : Ask) (s : State) : (latch a s).busOpen = s.busOpen := rfl
@[simp] theorem latch_pins (a : Ask) (s : State) : (latch a s).pins = s.pins := rfl
@[simp] theorem latch_canvas (a : Ask) (s : State) : (latch a s).canvas = a.canvas := rfl
@[simp] theorem latch_shadow (a : Ask) (s : State) : (latch a s).shadow = s.shadow := rfl
@[simp] theorem latch_trace (a : Ask) (s : State) : (latch a s).trace = s.trace := rfl
@[simp] theorem latch_encOut (a : Ask) (s : State) : (latch a s).encOut = a.encOut := rfl
@[simp] theorem latch_panel (a : Ask) (s : State) : (latch a s).panel = s.panel := rfl
@[simp] theorem latch_now (a : Ask) (s : State) : (latch a s).now = s.now := rfl
@[simp] theorem latch_world (a : Ask) (s : State) : (latch a s).world = s.world := rfl
@[simp] theorem latch_watcher (a : Ask) (s : State) : (latch a s).watcher = s.watcher := rfl
@[simp] theorem latch_presented (a : Ask) (s : State) : (latch a s).presented = s.presented := rfl
@[simp] theorem latch_inputs (a : Ask) (s : State) : (latch a s).inputs = s.inputs := rfl

/-! Fields after `takePresented`. -/
@[simp] theorem takePresented_cfg (rest : List Request) (s : State) : (takePresented rest s).cfg = s.cfg := rfl
@[simp] theorem takePresented_busy (rest : List Request) (s : State) : (takePresented rest s).busy = s.busy := rfl
@[simp] theorem takePresented_op (rest : List Request) (s : State) : (takePresented rest s).op = s.op := rfl
@[simp] theorem takePresented_seq (rest : List Request) (s : State) : (takePresented rest s).seq = s.seq := rfl
@[simp] theorem takePresented_err (rest : List Request) (s : State) : (takePresented rest s).err = s.err := rfl
@[simp] theorem takePresented_race (rest : List Request) (s : State) : (takePresented rest s).race = s.race := rfl
@[simp] theorem takePresented_busOpen (rest : List Request) (s : State) : (takePresented rest s).busOpen = s.busOpen := rfl
@[simp] theorem takePresented_pins (rest : List Request) (s : State) : (takePresented rest s).pins = s.pins := rfl
@[simp] theorem takePresented_canvas (rest : List Request) (s : State) : (takePresented rest s).canvas = s.canvas := rfl
@[simp] theorem takePresented_shadow (rest : List Request) (s : State) : (takePresented rest s).shadow = s.shadow := rfl
@[simp] theorem takePresented_trace (rest : List Request) (s : State) : (takePresented rest s).trace = s.trace := rfl
@[simp] theorem takePresented_encOut (rest : List Request) (s : State) : (takePresented rest s).encOut = s.encOut := rfl
@[simp] theorem takePresented_panel (rest : List Request) (s : State) : (takePresented rest s).panel = s.panel := rfl
@[simp] theorem takePresented_now (rest : List Request) (s : State) : (takePresented rest s).now = s.now := rfl
@[simp] theorem takePresented_world (rest : List Request) (s : State) : (takePresented rest s).world = s.world := rfl
@[simp] theorem takePresented_watcher (rest : List Request) (s : State) : (takePresented rest s).watcher = s.watcher := rfl
@[simp] theorem takePresented_presented (rest : List Request) (s : State) : (takePresented rest s).presented = rest := rfl
@[simp] theorem takePresented_inputs (rest : List Request) (s : State) : (takePresented rest s).inputs = s.inputs := rfl

/-! Fields after `configurePin`. -/
@[simp] theorem configurePin_cfg (pull : PullMode) (pin : Nat) (s : State) : (configurePin pull pin s).cfg = s.cfg := rfl
@[simp] theorem configurePin_busy (pull : PullMode) (pin : Nat) (s : State) : (configurePin pull pin s).busy = s.busy := rfl
@[simp] theorem configurePin_op (pull : PullMode) (pin : Nat) (s : State) : (configurePin pull pin s).op = s.op := rfl
@[simp] theorem configurePin_seq (pull : PullMode) (pin : Nat) (s : State) : (configurePin pull pin s).seq = s.seq := rfl
@[simp] theorem configurePin_err (pull : PullMode) (pin : Nat) (s : State) : (configurePin pull pin s).err = s.err := rfl
@[simp] theorem configurePin_race (pull : PullMode) (pin : Nat) (s : State) : (configurePin pull pin s).race = s.race := rfl
@[simp] theorem configurePin_busOpen (pull : PullMode) (pin : Nat) (s : State) : (configurePin pull pin s).busOpen = s.busOpen := rfl
@[simp] theorem configurePin_pins (pull : PullMode) (pin : Nat) (s : State) : (configurePin pull pin s).pins = s.pins := rfl
@[simp] theorem configurePin_canvas (pull : PullMode) (pin : Nat) (s : State) : (configurePin pull pin s).canvas = s.canvas := rfl
@[simp] theorem configurePin_shadow (pull : PullMode) (pin : Nat) (s : State) : (configurePin pull pin s).shadow = s.shadow := rfl
@[simp] theorem configurePin_trace (pull : PullMode) (pin : Nat) (s : State) : (configurePin pull pin s).trace = s.trace := rfl
@[simp] theorem configurePin_encOut (pull : PullMode) (pin : Nat) (s : State) : (configurePin pull pin s).encOut = s.encOut := rfl
@[simp] theorem configurePin_panel (pull : PullMode) (pin : Nat) (s : State) : (configurePin pull pin s).panel = s.panel := rfl
@[simp] theorem configurePin_now (pull : PullMode) (pin : Nat) (s : State) : (configurePin pull pin s).now = s.now := rfl
@[simp] theorem configurePin_world (pull : PullMode) (pin : Nat) (s : State) : (configurePin pull pin s).world = s.world := rfl
@[simp] theorem configurePin_watcher (pull : PullMode) (pin : Nat) (s : State) : (configurePin pull pin s).watcher = { s.watcher with gpio := s.watcher.gpio ++ [.configureInput pin pull] } := rfl
@[simp] theorem configurePin_presented (pull : PullMode) (pin : Nat) (s : State) : (configurePin pull pin s).presented = s.presented := rfl
@[simp] theorem configurePin_inputs (pull : PullMode) (pin : Nat) (s : State) : (configurePin pull pin s).inputs = s.inputs := rfl

/-! Fields after `consume`. -/
@[simp] theorem consume_cfg (rest : List Move) (s : State) : (consume rest s).cfg = s.cfg := rfl
@[simp] theorem consume_busy (rest : List Move) (s : State) : (consume rest s).busy = s.busy := rfl
@[simp] theorem consume_op (rest : List Move) (s : State) : (consume rest s).op = s.op := rfl
@[simp] theorem consume_seq (rest : List Move) (s : State) : (consume rest s).seq = s.seq := rfl
@[simp] theorem consume_err (rest : List Move) (s : State) : (consume rest s).err = s.err := rfl
@[simp] theorem consume_race (rest : List Move) (s : State) : (consume rest s).race = s.race := rfl
@[simp] theorem consume_busOpen (rest : List Move) (s : State) : (consume rest s).busOpen = s.busOpen := rfl
@[simp] theorem consume_pins (rest : List Move) (s : State) : (consume rest s).pins = s.pins := rfl
@[simp] theorem consume_canvas (rest : List Move) (s : State) : (consume rest s).canvas = s.canvas := rfl
@[simp] theorem consume_shadow (rest : List Move) (s : State) : (consume rest s).shadow = s.shadow := rfl
@[simp] theorem consume_trace (rest : List Move) (s : State) : (consume rest s).trace = s.trace := rfl
@[simp] theorem consume_encOut (rest : List Move) (s : State) : (consume rest s).encOut = s.encOut := rfl
@[simp] theorem consume_panel (rest : List Move) (s : State) : (consume rest s).panel = s.panel := rfl
@[simp] theorem consume_now (rest : List Move) (s : State) : (consume rest s).now = s.now := rfl
@[simp] theorem consume_world (rest : List Move) (s : State) : (consume rest s).world = s.world := rfl
@[simp] theorem consume_watcher (rest : List Move) (s : State) : (consume rest s).watcher = s.watcher := rfl
@[simp] theorem consume_presented (rest : List Move) (s : State) : (consume rest s).presented = s.presented := rfl
@[simp] theorem consume_inputs (rest : List Move) (s : State) : (consume rest s).inputs = rest := rfl

/-! Fields after `clearPin`. -/
@[simp] theorem clearPin_cfg (pin : Nat) (s : State) : (clearPin pin s).cfg = s.cfg := rfl
@[simp] theorem clearPin_busy (pin : Nat) (s : State) : (clearPin pin s).busy = s.busy := rfl
@[simp] theorem clearPin_op (pin : Nat) (s : State) : (clearPin pin s).op = s.op := rfl
@[simp] theorem clearPin_seq (pin : Nat) (s : State) : (clearPin pin s).seq = s.seq := rfl
@[simp] theorem clearPin_err (pin : Nat) (s : State) : (clearPin pin s).err = s.err := rfl
@[simp] theorem clearPin_race (pin : Nat) (s : State) : (clearPin pin s).race = s.race := rfl
@[simp] theorem clearPin_busOpen (pin : Nat) (s : State) : (clearPin pin s).busOpen = s.busOpen := rfl
@[simp] theorem clearPin_pins (pin : Nat) (s : State) : (clearPin pin s).pins = s.pins := rfl
@[simp] theorem clearPin_canvas (pin : Nat) (s : State) : (clearPin pin s).canvas = s.canvas := rfl
@[simp] theorem clearPin_shadow (pin : Nat) (s : State) : (clearPin pin s).shadow = s.shadow := rfl
@[simp] theorem clearPin_trace (pin : Nat) (s : State) : (clearPin pin s).trace = s.trace := rfl
@[simp] theorem clearPin_encOut (pin : Nat) (s : State) : (clearPin pin s).encOut = s.encOut := rfl
@[simp] theorem clearPin_panel (pin : Nat) (s : State) : (clearPin pin s).panel = s.panel := rfl
@[simp] theorem clearPin_now (pin : Nat) (s : State) : (clearPin pin s).now = s.now := rfl
@[simp] theorem clearPin_world (pin : Nat) (s : State) : (clearPin pin s).world = s.world := rfl
@[simp] theorem clearPin_watcher (pin : Nat) (s : State) : (clearPin pin s).watcher = { s.watcher with bindings := s.watcher.bindings.erase pin, gpio := s.watcher.gpio ++ [.clearEdgeDetection pin] } := rfl
@[simp] theorem clearPin_presented (pin : Nat) (s : State) : (clearPin pin s).presented = s.presented := rfl
@[simp] theorem clearPin_inputs (pin : Nat) (s : State) : (clearPin pin s).inputs = s.inputs := rfl

/-! Fields after `registerPin`. -/
@[simp] theorem registerPin_cfg (cb : List HostPort) (pin : Nat) (s : State) : (registerPin cb pin s).cfg = s.cfg := rfl
@[simp] theorem registerPin_busy (cb : List HostPort) (pin : Nat) (s : State) : (registerPin cb pin s).busy = s.busy := rfl
@[simp] theorem registerPin_op (cb : List HostPort) (pin : Nat) (s : State) : (registerPin cb pin s).op = s.op := rfl
@[simp] theorem registerPin_seq (cb : List HostPort) (pin : Nat) (s : State) : (registerPin cb pin s).seq = s.seq := rfl
@[simp] theorem registerPin_err (cb : List HostPort) (pin : Nat) (s : State) : (registerPin cb pin s).err = s.err := rfl
@[simp] theorem registerPin_race (cb : List HostPort) (pin : Nat) (s : State) : (registerPin cb pin s).race = s.race := rfl
@[simp] theorem registerPin_busOpen (cb : List HostPort) (pin : Nat) (s : State) : (registerPin cb pin s).busOpen = s.busOpen := rfl
@[simp] theorem registerPin_pins (cb : List HostPort) (pin : Nat) (s : State) : (registerPin cb pin s).pins = s.pins := rfl
@[simp] theorem registerPin_canvas (cb : List HostPort) (pin : Nat) (s : State) : (registerPin cb pin s).canvas = s.canvas := rfl
@[simp] theorem registerPin_shadow (cb : List HostPort) (pin : Nat) (s : State) : (registerPin cb pin s).shadow = s.shadow := rfl
@[simp] theorem registerPin_trace (cb : List HostPort) (pin : Nat) (s : State) : (registerPin cb pin s).trace = s.trace := rfl
@[simp] theorem registerPin_encOut (cb : List HostPort) (pin : Nat) (s : State) : (registerPin cb pin s).encOut = s.encOut := rfl
@[simp] theorem registerPin_panel (cb : List HostPort) (pin : Nat) (s : State) : (registerPin cb pin s).panel = s.panel := rfl
@[simp] theorem registerPin_now (cb : List HostPort) (pin : Nat) (s : State) : (registerPin cb pin s).now = s.now := rfl
@[simp] theorem registerPin_world (cb : List HostPort) (pin : Nat) (s : State) : (registerPin cb pin s).world = takeRegistrationAnswer s.world := rfl
@[simp] theorem registerPin_watcher (cb : List HostPort) (pin : Nat) (s : State) : (registerPin cb pin s).watcher = { bindings := if registers pin s then s.watcher.bindings.set pin cb else s.watcher.bindings, lastResult := some (if registers pin s then .bound else .unavailable), gpio := s.watcher.gpio ++ [.onFallingEdge pin cb s.cfg.debounceMs] } := rfl
@[simp] theorem registerPin_presented (cb : List HostPort) (pin : Nat) (s : State) : (registerPin cb pin s).presented = s.presented := rfl
@[simp] theorem registerPin_inputs (cb : List HostPort) (pin : Nat) (s : State) : (registerPin cb pin s).inputs = s.inputs := rfl

/-! Fields after `edgeOn`. -/
@[simp] theorem edgeOn_cfg (pin : Nat) (s : State) : (edgeOn pin s).cfg = s.cfg := rfl
@[simp] theorem edgeOn_busy (pin : Nat) (s : State) : (edgeOn pin s).busy = s.busy := rfl
@[simp] theorem edgeOn_op (pin : Nat) (s : State) : (edgeOn pin s).op = s.op := rfl
@[simp] theorem edgeOn_seq (pin : Nat) (s : State) : (edgeOn pin s).seq = s.seq := rfl
@[simp] theorem edgeOn_err (pin : Nat) (s : State) : (edgeOn pin s).err = s.err := rfl
@[simp] theorem edgeOn_race (pin : Nat) (s : State) : (edgeOn pin s).race = s.race := rfl
@[simp] theorem edgeOn_busOpen (pin : Nat) (s : State) : (edgeOn pin s).busOpen = s.busOpen := rfl
@[simp] theorem edgeOn_pins (pin : Nat) (s : State) : (edgeOn pin s).pins = s.pins := rfl
@[simp] theorem edgeOn_canvas (pin : Nat) (s : State) : (edgeOn pin s).canvas = s.canvas := rfl
@[simp] theorem edgeOn_shadow (pin : Nat) (s : State) : (edgeOn pin s).shadow = s.shadow := rfl
@[simp] theorem edgeOn_trace (pin : Nat) (s : State) : (edgeOn pin s).trace = s.trace := rfl
@[simp] theorem edgeOn_encOut (pin : Nat) (s : State) : (edgeOn pin s).encOut = s.encOut := rfl
@[simp] theorem edgeOn_panel (pin : Nat) (s : State) : (edgeOn pin s).panel = s.panel := rfl
@[simp] theorem edgeOn_now (pin : Nat) (s : State) : (edgeOn pin s).now = s.now := rfl
@[simp] theorem edgeOn_world (pin : Nat) (s : State) : (edgeOn pin s).world = s.world := rfl
@[simp] theorem edgeOn_watcher (pin : Nat) (s : State) : (edgeOn pin s).watcher = s.watcher := rfl
@[simp] theorem edgeOn_presented (pin : Nat) (s : State) : (edgeOn pin s).presented = s.presented := rfl
@[simp] theorem edgeOn_inputs (pin : Nat) (s : State) : (edgeOn pin s).inputs = callbackMoves ((s.watcher.bindings.get pin).getD []) ++ s.inputs := rfl

end Sys2Proof.Machine
end

