-- ==== Sys2Proof/Laws/Run.lean ====
section
/-! SUPPORT. Each shared operation once: the outside world's answers, an entry of an event list, a whole list, a step of the
sequencer, and issuing an operation. -/

namespace Sys2Proof.Machine

/-! ### Answers -/

theorem Oracle.answer_advance {α : Type} (free : Nat → α) (o : Oracle α) (k : Nat) :
    o.advance.answer free k = o.answer free (k + 1) := by
  cases h : o.given with
  | nil => simp [Oracle.answer, Oracle.advance, h, Nat.add_assoc, Nat.add_comm 1 k]
  | cons a l => simp [Oracle.answer, Oracle.advance, h, Nat.add_assoc, Nat.add_comm 1 k]

theorem transferAnswer_advance (w : World) (k : Nat) :
    transferAnswer { w with transfers := w.transfers.advance } k = transferAnswer w (k + 1) :=
  Oracle.answer_advance _ _ _

theorem callAnswer_advance (w : World) (k : Nat) :
    callAnswer { w with calls := w.calls.advance } k = callAnswer w (k + 1) :=
  Oracle.answer_advance _ _ _

theorem gapAnswer_advance (w : World) (k : Nat) :
    gapAnswer { w with gaps := w.gaps.advance } k = gapAnswer w (k + 1) :=
  Oracle.answer_advance _ _ _

@[simp] theorem transferAnswer_gaps (w : World) (g : Oracle Nat) (k : Nat) :
    transferAnswer { w with gaps := g } k = transferAnswer w k := rfl
@[simp] theorem transferAnswer_calls (w : World) (g : Oracle Bool) (k : Nat) :
    transferAnswer { w with calls := g } k = transferAnswer w k := rfl
@[simp] theorem callAnswer_gaps (w : World) (g : Oracle Nat) (k : Nat) :
    callAnswer { w with gaps := g } k = callAnswer w k := rfl
@[simp] theorem callAnswer_transfers (w : World) (g : Oracle TransferAnswer) (k : Nat) :
    callAnswer { w with transfers := g } k = callAnswer w k := rfl
@[simp] theorem gapAnswer_transfers (w : World) (g : Oracle TransferAnswer) (k : Nat) :
    gapAnswer { w with transfers := g } k = gapAnswer w k := rfl
@[simp] theorem gapAnswer_calls (w : World) (g : Oracle Bool) (k : Nat) :
    gapAnswer { w with calls := g } k = gapAnswer w k := rfl

/-! ### An entry that happens -/

/-- How many answers of each kind an entry takes when it happens. -/
def itemTransfers (it : Item) : Nat := match it.event with | .xfer _ => 1 | _ => 0
/-- Configuration calls of an entry. -/
def itemCalls (it : Item) : Nat := match it.event with | .spiOpen _ _ | .spiClk _ | .spiMode _ => 1 | _ => 0

/-- The transfers of a list. -/
def listTransfers (items : List Item) : Nat := (items.map itemTransfers).sum
/-- The configuration calls of a list. -/
def listCalls (items : List Item) : Nat := (items.map itemCalls).sum

/-- The state after an entry that happens. -/
def happen (it : Item) (s : State) : State :=
  match it.event with
  | .xfer _ => succeed it (takeTransferAnswer s)
  | .spiOpen _ _ | .spiClk _ | .spiMode _ => succeed it (takeCallAnswer s)
  | .pinOut _ | .pin _ _ | .wait _ => succeed it s

/-- The state after a whole list that happens. -/
def play (items : List Item) (s : State) : State := items.foldl (fun s it => happen it s) s

@[simp] theorem play_nil (s : State) : play [] s = s := rfl
@[simp] theorem play_cons (it : Item) (is : List Item) (s : State) : play (it :: is) s = play is (happen it s) := rfl
theorem play_append (a b : List Item) (s : State) : play (a ++ b) s = play b (play a s) := by simp [play]

/-- Only an event that puts the backlight out ends its high level. -/
theorem pinsAfter_backlight_high {e : Event} {p : Pins} (h : p.backlight = .driven .high) (he : e ≠ .pin .backlight .low) :
    (pinsAfter e p).backlight = .driven .high := by
  cases e with
  | pin sig lvl => cases sig <;> cases lvl <;> simp_all [pinsAfter]
  | pinOut sig => cases sig <;> simp_all [pinsAfter]
  | xfer _ | wait _ | spiOpen _ _ | spiClk _ | spiMode _ => exact h

/-- `happen` only takes answers before it succeeds. -/
theorem happen_fields (it : Item) (s : State) :
    (happen it s).cfg = s.cfg ∧ (happen it s).busy = s.busy ∧ (happen it s).op = s.op ∧
    (happen it s).seq = s.seq + 1 ∧ (happen it s).err = s.err ∧ (happen it s).race = s.race ∧
    (happen it s).busOpen = (s.busOpen || decide (Edit.busOpen ∈ it.onOk)) ∧
    (happen it s).pins = pinsAfter it.event s.pins ∧ (happen it s).canvas = s.canvas ∧
    (happen it s).shadow = it.onOk.foldl editShadow s.shadow ∧ (happen it s).trace = s.trace ++ [it.event] ∧
    (happen it s).encOut = s.encOut ∧
    (happen it s).panel = panelSee s.cfg (eventTime it.event s) s.pins.dc it.event s.panel ∧
    (happen it s).now = eventTime it.event s ∧ (happen it s).watcher = s.watcher ∧
    (happen it s).inputs = s.inputs ∧ (happen it s).presented = s.presented := by
  unfold happen
  split <;> exact ⟨rfl, rfl, rfl, rfl, rfl, rfl, rfl, rfl, rfl, rfl, rfl, rfl, rfl, rfl, rfl, rfl, rfl⟩

theorem happen_transferAnswer (it : Item) (s : State) (k : Nat) :
    transferAnswer (happen it s).world k = transferAnswer s.world (k + itemTransfers it) := by
  unfold happen itemTransfers
  split <;> simp_all [transferAnswer, Oracle.answer_advance]

theorem happen_callAnswer (it : Item) (s : State) (k : Nat) :
    callAnswer (happen it s).world k = callAnswer s.world (k + itemCalls it) := by
  unfold happen itemCalls
  split <;> simp_all [callAnswer, Oracle.answer_advance]

theorem happen_gapAnswer (it : Item) (s : State) (k : Nat) :
    gapAnswer (happen it s).world k = gapAnswer s.world (k + 1) := by
  unfold happen
  split <;> simp [gapAnswer, Oracle.answer_advance]

/-- Everything a successful list does, the panel and the clock apart. -/
theorem play_fields (items : List Item) (s : State) :
    (play items s).cfg = s.cfg ∧ (play items s).busy = s.busy ∧ (play items s).op = s.op ∧
    (play items s).seq = s.seq + items.length ∧ (play items s).err = s.err ∧ (play items s).race = s.race ∧
    (play items s).busOpen = (s.busOpen || items.any (fun it => decide (Edit.busOpen ∈ it.onOk))) ∧
    (play items s).pins = items.foldl (fun p it => pinsAfter it.event p) s.pins ∧
    (play items s).canvas = s.canvas ∧
    (play items s).shadow = items.foldl (fun sh it => it.onOk.foldl editShadow sh) s.shadow ∧
    (play items s).trace = s.trace ++ items.map Item.event ∧ (play items s).encOut = s.encOut ∧
    (play items s).watcher = s.watcher ∧ (play items s).inputs = s.inputs ∧ (play items s).presented = s.presented := by
  induction items generalizing s with
  | nil => simp
  | cons it is ih =>
    obtain ⟨h1, h2, h3, h4, h5, h6, h7, h8, h9, h10, h11, h12, -, -, h15, h16, h17⟩ := happen_fields it s
    obtain ⟨g1, g2, g3, g4, g5, g6, g7, g8, g9, g10, g11, g12, g13, g14, g15⟩ := ih (happen it s)
    simp only [play_cons, List.length_cons, List.any_cons, List.foldl_cons, List.map_cons]
    refine ⟨g1.trans h1, g2.trans h2, g3.trans h3, ?_, g5.trans h5, g6.trans h6, ?_, ?_, g9.trans h9, ?_, ?_,
      g12.trans h12, g13.trans h15, g14.trans h16, g15.trans h17⟩
    · rw [g4, h4]; omega
    · rw [g7, h7, Bool.or_assoc]
    · rw [g8, h8]
    · rw [g10, h10]
    · rw [g11, h11]; simp

/-! ### An entry of the event list -/

/-- Everything an entry can do: it happens, an SPI call of it fails, or a transfer of it never returns. -/
theorem doItem_cases (it : Item) (s : State) :
    (doItem it s = .done (happen it s) ∧
      (itemTransfers it = 1 → transferAnswer s.world 0 = .complete) ∧ (itemCalls it = 1 → callAnswer s.world 0 = true)) ∨
    (∃ bs k, it.event = .xfer bs ∧ transferAnswer s.world 0 = .fail k ∧
      doItem it s = .failed (failTransfer it (bs.take k) (takeTransferAnswer s))) ∨
    (itemCalls it = 1 ∧ callAnswer s.world 0 = false ∧
      doItem it s = .failed (raise .transport (applyEdits it.onFail (takeCallAnswer s)))) ∨
    (∃ bs, it.event = .xfer bs ∧ transferAnswer s.world 0 = .never ∧ doItem it s = .stalled s) := by
  obtain ⟨ev, ok, bad⟩ := it
  cases ev with
  | xfer bs =>
    cases h : transferAnswer s.world 0 with
    | complete => exact .inl ⟨by simp [doItem, happen, h], fun _ => rfl, by simp [itemCalls]⟩
    | fail k => exact .inr (.inl ⟨bs, k, rfl, rfl, by simp only [doItem, h]⟩)
    | never => exact .inr (.inr (.inr ⟨bs, rfl, rfl, by simp only [doItem, h]⟩))
  | spiOpen a b =>
    cases h : callAnswer s.world 0 with
    | true => exact .inl ⟨by simp [doItem, happen, h], by simp [itemTransfers], fun _ => rfl⟩
    | false => exact .inr (.inr (.inl ⟨rfl, rfl, by simp [doItem, h]⟩))
  | spiClk a =>
    cases h : callAnswer s.world 0 with
    | true => exact .inl ⟨by simp [doItem, happen, h], by simp [itemTransfers], fun _ => rfl⟩
    | false => exact .inr (.inr (.inl ⟨rfl, rfl, by simp [doItem, h]⟩))
  | spiMode a =>
    cases h : callAnswer s.world 0 with
    | true => exact .inl ⟨by simp [doItem, happen, h], by simp [itemTransfers], fun _ => rfl⟩
    | false => exact .inr (.inr (.inl ⟨rfl, rfl, by simp [doItem, h]⟩))
  | pinOut a => exact .inl ⟨rfl, by simp [itemTransfers], by simp [itemCalls]⟩
  | pin a b => exact .inl ⟨rfl, by simp [itemTransfers], by simp [itemCalls]⟩
  | wait a => exact .inl ⟨rfl, by simp [itemTransfers], by simp [itemCalls]⟩

/-- An entry happens when its answers say so. -/
theorem doItem_happens {it : Item} {s : State} (ht : 0 < itemTransfers it → transferAnswer s.world 0 = .complete)
    (hc : 0 < itemCalls it → callAnswer s.world 0 = true) : doItem it s = .done (happen it s) := by
  obtain ⟨ev, ok, bad⟩ := it
  cases ev <;> simp_all [doItem, happen, itemTransfers, itemCalls]

/-! ### A whole list -/

theorem runItems_cons_done {it : Item} {is : List Item} {s s' : State} (h : doItem it s = .done s') :
    runItems (it :: is) s = runItems is s' := by simp [runItems, h]

/-- A list whose transfers and calls all succeed is played and completed. -/
theorem runItems_complete (items : List Item) (s : State)
    (ht : ∀ k, k < listTransfers items → transferAnswer s.world k = .complete)
    (hc : ∀ k, k < listCalls items → callAnswer s.world k = true) :
    runItems items s = complete (play items s) := by
  induction items generalizing s with
  | nil => rfl
  | cons it is ih =>
    have e1 : listTransfers (it :: is) = itemTransfers it + listTransfers is := by simp [listTransfers]
    have e2 : listCalls (it :: is) = itemCalls it + listCalls is := by simp [listCalls]
    rw [runItems_cons_done (doItem_happens (fun h => ht 0 (by omega)) (fun h => hc 0 (by omega))), play_cons]
    refine ih _ (fun k hk => ?_) (fun k hk => ?_)
    · rw [happen_transferAnswer]; exact ht _ (by omega)
    · rw [happen_callAnswer]; exact hc _ (by omega)

/-- A list up to a point where everything succeeds. -/
theorem runItems_append (a b : List Item) (s : State)
    (ht : ∀ k, k < listTransfers a → transferAnswer s.world k = .complete)
    (hc : ∀ k, k < listCalls a → callAnswer s.world k = true) :
    runItems (a ++ b) s = runItems b (play a s) := by
  induction a generalizing s with
  | nil => rfl
  | cons it is ih =>
    have e1 : listTransfers (it :: is) = itemTransfers it + listTransfers is := by simp [listTransfers]
    have e2 : listCalls (it :: is) = itemCalls it + listCalls is := by simp [listCalls]
    rw [List.cons_append, runItems_cons_done (doItem_happens (fun h => ht 0 (by omega)) (fun h => hc 0 (by omega))),
      play_cons]
    refine ih _ (fun k hk => ?_) (fun k hk => ?_)
    · rw [happen_transferAnswer]; exact ht _ (by omega)
    · rw [happen_callAnswer]; exact hc _ (by omega)

theorem play_transferAnswer (items : List Item) (s : State) (k : Nat) :
    transferAnswer (play items s).world k = transferAnswer s.world (k + listTransfers items) := by
  induction items generalizing s with
  | nil => rfl
  | cons it is ih =>
    rw [play_cons, ih, happen_transferAnswer]
    congr 1
    simp only [listTransfers, List.map_cons, List.sum_cons]; omega

/-- Everything a whole list can do: it completes, or at some entry, all before it having happened, a transfer fails, a
configuration call fails, or a transfer never returns. -/
theorem runItems_cases (items : List Item) (s : State) :
    runItems items s = complete (play items s) ∨
    ∃ k it, items[k]? = some it ∧
      ((∃ bs m, it.event = .xfer bs ∧ transferAnswer (play (items.take k) s).world 0 = .fail m ∧
          runItems items s = failTransfer it (bs.take m) (takeTransferAnswer (play (items.take k) s))) ∨
        (itemCalls it = 1 ∧ callAnswer (play (items.take k) s).world 0 = false ∧
          runItems items s = raise .transport (applyEdits it.onFail (takeCallAnswer (play (items.take k) s)))) ∨
        (∃ bs, it.event = .xfer bs ∧ transferAnswer (play (items.take k) s).world 0 = .never ∧
          runItems items s = play (items.take k) s)) := by
  induction items generalizing s with
  | nil => exact .inl rfl
  | cons it is ih =>
    rcases doItem_cases it s with ⟨h, -⟩ | ⟨bs, k, h1, h2, h3⟩ | ⟨h1, h2, h3⟩ | ⟨bs, h1, h2, h3⟩
    · rw [runItems_cons_done h]
      rcases ih (happen it s) with hc | ⟨k, it', hk, hr⟩
      · exact .inl hc
      · exact .inr ⟨k + 1, it', by simpa using hk, by simpa using hr⟩
    · exact .inr ⟨0, it, rfl, .inl ⟨bs, k, h1, h2, by simp [runItems, h3]⟩⟩
    · exact .inr ⟨0, it, rfl, .inr (.inl ⟨h1, h2, by simp [runItems, h3]⟩)⟩
    · exact .inr ⟨0, it, rfl, .inr (.inr ⟨bs, h1, h2, by simp [runItems, h3]⟩)⟩

theorem play_callAnswer (items : List Item) (s : State) (k : Nat) :
    callAnswer (play items s).world k = callAnswer s.world (k + listCalls items) := by
  induction items generalizing s with
  | nil => rfl
  | cons it is ih =>
    rw [play_cons, ih, happen_callAnswer]
    congr 1
    simp only [listCalls, List.map_cons, List.sum_cons]; omega

/-- Induction over what becomes of a list: a property that every entry, every error and the completion keep. -/
theorem runItems_induct (P : State → Prop) (items : List Item) (s : State) (h0 : P s)
    (hdone : ∀ it s, it ∈ items → P s → P (happen it s))
    (hxfer : ∀ it sent s, it ∈ items → P s → P (failTransfer it sent (takeTransferAnswer s)))
    (hcall : ∀ it s, it ∈ items → P s → P (raise .transport (applyEdits it.onFail (takeCallAnswer s))))
    (hend : ∀ s, P s → P (complete s)) : P (runItems items s) := by
  induction items generalizing s with
  | nil => exact hend s h0
  | cons it is ih =>
    have hm : it ∈ it :: is := List.mem_cons_self
    rcases doItem_cases it s with ⟨h, -⟩ | ⟨bs, k, -, -, h⟩ | ⟨-, -, h⟩ | ⟨bs, -, -, h⟩
    · rw [runItems_cons_done h]
      exact ih _ (hdone it s hm h0) (fun i s hi => hdone i s (List.mem_cons_of_mem _ hi))
        (fun i p s hi => hxfer i p s (List.mem_cons_of_mem _ hi)) (fun i s hi => hcall i s (List.mem_cons_of_mem _ hi))
    · simpa [runItems, h] using hxfer it (bs.take k) s hm h0
    · simpa [runItems, h] using hcall it s hm h0
    · simpa [runItems, h] using h0

/-! ### Issuing -/

/-- Everything issuing an operation can do. -/
theorem issue_cases (a : Ask) (go : State → State) (s : State) :
    (s.race = true ∧ issue a go s = .refused .raced) ∨
    (s.race = false ∧ s.busy = true ∧ issue a go s = .next (setRace s)) ∨
    (s.race = false ∧ s.busy = false ∧ a.illegal = true ∧ issue a go s = .next (endOp .configuration s)) ∨
    (s.race = false ∧ s.busy = false ∧ a.illegal = false ∧ ∃ r, a.stop = some r ∧ issue a go s = .refused r) ∨
    (s.race = false ∧ s.busy = false ∧ a.illegal = false ∧ a.stop = none ∧ issue a go s = .next (go (latch a s))) := by
  unfold issue
  cases h1 : s.race <;> cases h2 : s.busy <;> cases h3 : a.illegal <;> cases h4 : a.stop <;> simp

/-- A legal operation issued to an idle block runs. -/
theorem perform_runs {a : Ask} {s : State} (hr : s.race = false) (hb : s.busy = false) (hi : a.illegal = false)
    (hs : a.stop = none) : perform a s = .next (runItems a.items (latch a s)) := by
  simp [perform, issue, hr, hb, hi, hs]

/-- A legal operation whose transfers and calls all succeed completes. -/
theorem perform_completes {a : Ask} {s : State} (hr : s.race = false) (hb : s.busy = false) (hi : a.illegal = false)
    (hs : a.stop = none) (ht : ∀ k, k < listTransfers a.items → transferAnswer s.world k = .complete)
    (hc : ∀ k, k < listCalls a.items → callAnswer s.world k = true) :
    perform a s = .next (complete (play a.items (latch a s))) := by
  rw [perform_runs hr hb hi hs, runItems_complete _ (latch a s) ht hc]

/-- An operation that raises ConfigurationError. -/
theorem perform_illegal {a : Ask} {s : State} (hr : s.race = false) (hb : s.busy = false) (hi : a.illegal = true) :
    perform a s = .next (endOp .configuration s) := by
  simp [perform, issue, hr, hb, hi]

@[simp] theorem listTransfers_append (a b : List Item) :
    listTransfers (a ++ b) = listTransfers a + listTransfers b := by simp [listTransfers]
@[simp] theorem listCalls_append (a b : List Item) : listCalls (a ++ b) = listCalls a + listCalls b := by
  simp [listCalls]
@[simp] theorem listTransfers_cons (a : Item) (b : List Item) :
    listTransfers (a :: b) = itemTransfers a + listTransfers b := by simp [listTransfers]
@[simp] theorem listCalls_cons (a : Item) (b : List Item) : listCalls (a :: b) = itemCalls a + listCalls b := by
  simp [listCalls]
@[simp] theorem listTransfers_nil : listTransfers [] = 0 := rfl
@[simp] theorem listCalls_nil : listCalls [] = 0 := rfl

@[simp] theorem listTransfers_command (b : Byte) (ok bad : List Edit) : listTransfers (commandItems b ok bad) = 1 := rfl
@[simp] theorem listCalls_command (b : Byte) (ok bad : List Edit) : listCalls (commandItems b ok bad) = 0 := rfl
@[simp] theorem events_command (b : Byte) (ok bad : List Edit) :
    (commandItems b ok bad).map Item.event = [.pin .dc .low, .xfer [b]] := rfl

theorem transferItems_facts (ok bad : List Edit) (ts : List (List Byte)) :
    listTransfers (transferItems ok bad ts) = ts.length ∧ listCalls (transferItems ok bad ts) = 0 ∧
    (transferItems ok bad ts).map Item.event = ts.map Event.xfer := by
  induction ts with
  | nil => exact ⟨rfl, rfl, rfl⟩
  | cons t ts ih =>
    cases ts with
    | nil => exact ⟨rfl, rfl, rfl⟩
    | cons u us =>
      obtain ⟨h1, h2, h3⟩ := ih
      refine ⟨?_, ?_, ?_⟩
      · simp only [transferItems, listTransfers_cons, h1]; simp [itemTransfers]; omega
      · simp only [transferItems, listCalls_cons, h2]; simp [itemCalls]
      · simp only [transferItems, List.map_cons] at h3 ⊢; rw [h3]

@[simp] theorem listTransfers_payload (cfg : Config) (bs : List Byte) (ok bad : List Edit) :
    listTransfers (payloadItems cfg bs ok bad) = (chunks cfg bs).length := by
  simp [payloadItems, (transferItems_facts ok bad _).1, itemTransfers, pinItem]
@[simp] theorem listCalls_payload (cfg : Config) (bs : List Byte) (ok bad : List Edit) :
    listCalls (payloadItems cfg bs ok bad) = 0 := by
  simp [payloadItems, (transferItems_facts ok bad _).2.1, itemCalls, pinItem]
@[simp] theorem events_payload (cfg : Config) (bs : List Byte) (ok bad : List Edit) :
    (payloadItems cfg bs ok bad).map Item.event = .pin .dc .high :: (chunks cfg bs).map Event.xfer := by
  simp [payloadItems, (transferItems_facts ok bad _).2.2, pinItem]

end Sys2Proof.Machine
end

