-- ==== Sys2Proof/Laws/Panel.lean ====
section
/-! SUPPORT. The receiver over whole lists: UNDEFINED stays, data bytes join, what a command byte and a payload of an
operation do to it, and how time goes on. -/

namespace Sys2Proof.Machine

@[simp] theorem panelCommand_none (cfg : Config) (now : Nat) (c : Byte) (low : Option Nat) :
    panelCommand cfg now c ⟨low, none⟩ = ⟨low, none⟩ := rfl
@[simp] theorem panelCommand_some (cfg : Config) (now : Nat) (c : Byte) (low : Option Nat) (r : PanelRegs) :
    panelCommand cfg now c ⟨low, some r⟩ = ⟨low, takeCommand cfg now c r⟩ := rfl
@[simp] theorem panelCommand_lowSince (cfg : Config) (now : Nat) (c : Byte) (p : Panel) :
    (panelCommand cfg now c p).lowSince = p.lowSince := rfl
@[simp] theorem panelData_lowSince (cfg : Config) (ds : List Byte) (p : Panel) :
    (panelData cfg ds p).lowSince = p.lowSince := rfl
@[simp] theorem panelData_nil (cfg : Config) (p : Panel) : panelData cfg [] p = p := rfl
@[simp] theorem panelData_none (cfg : Config) (ds : List Byte) (low : Option Nat) :
    panelData cfg ds ⟨low, none⟩ = ⟨low, none⟩ := by
  induction ds with
  | nil => rfl
  | cons d ds ih => simpa [panelData] using ih
theorem panelData_cons (cfg : Config) (d : Byte) (ds : List Byte) (low : Option Nat) (r : PanelRegs) :
    panelData cfg (d :: ds) ⟨low, some r⟩ = panelData cfg ds ⟨low, takeData cfg d r⟩ := rfl
/-- Transfer boundaries are not seen (44_wire_commands.md R162). -/
theorem panelData_append (cfg : Config) (a b : List Byte) (p : Panel) :
    panelData cfg (a ++ b) p = panelData cfg b (panelData cfg a p) := by simp [panelData]

/-- The time the waits of a list ask for (70_reset_and_hazards.md R226). -/
def listWait (items : List Item) : Nat := (items.map (fun it => waitTime it.event)).sum

@[simp] theorem listWait_append (a b : List Item) : listWait (a ++ b) = listWait a + listWait b := by simp [listWait]

/-- A list takes at least its waits. -/
theorem play_now (items : List Item) (s : State) : s.now + listWait items ≤ (play items s).now := by
  induction items generalizing s with
  | nil => simp [listWait]
  | cons it is ih =>
    have h := ih (happen it s)
    obtain ⟨-, -, -, -, -, -, -, -, -, -, -, -, -, hn, -, -⟩ := happen_fields it s
    rw [hn] at h
    simp only [play_cons, listWait, List.map_cons, List.sum_cons, eventTime] at h ⊢
    omega

/-- Transfers under a high DC line: the receiver takes their bytes as one data phase. -/
theorem play_transfers (ok bad : List Edit) (ts : List (List Byte)) (s : State) (h : s.pins.dc = .driven .high) :
    (play (transferItems ok bad ts) s).panel = panelData s.cfg ts.flatten s.panel ∧
    (play (transferItems ok bad ts) s).pins = s.pins ∧ (play (transferItems ok bad ts) s).cfg = s.cfg := by
  induction ts generalizing s with
  | nil => exact ⟨rfl, rfl, rfl⟩
  | cons t ts ih =>
    cases ts with
    | nil => exact ⟨by simp [transferItems, happen, panelSee, panelHear, h], rfl, rfl⟩
    | cons u us =>
      have hh := ih (happen ⟨.xfer t, [], bad⟩ s) (by simpa [happen, pinsAfter] using h)
      refine ⟨?_, hh.2.1, hh.2.2⟩
      simp only [transferItems, play_cons]
      rw [hh.1]
      simp [happen, panelSee, panelHear, h, panelData_append]

/-- One command byte of an operation, at the receiver and at the pins. -/
theorem play_command (b : Byte) (ok bad : List Edit) (s : State) :
    (play (commandItems b ok bad) s).panel = panelCommand s.cfg (play (commandItems b ok bad) s).now b s.panel ∧
    (play (commandItems b ok bad) s).pins = { s.pins with dc := .driven .low } ∧
    (play (commandItems b ok bad) s).cfg = s.cfg := ⟨rfl, rfl, rfl⟩

/-- A payload of an operation, at the receiver and at the pins, whatever the chunk size. -/
theorem play_payload (cfg : Config) (bs : List Byte) (ok bad : List Edit) (s : State) :
    (play (payloadItems cfg bs ok bad) s).panel = panelData s.cfg bs s.panel ∧
    (play (payloadItems cfg bs ok bad) s).pins = { s.pins with dc := .driven .high } ∧
    (play (payloadItems cfg bs ok bad) s).cfg = s.cfg := by
  have h := play_transfers ok bad (chunks cfg bs) (happen (pinItem .dc .high) s) rfl
  rw [chunks_flatten] at h
  exact h

/-- No data byte changes the pixel memory outside a memory-write frame. -/
theorem takeData_gram {cfg : Config} {d : Byte} {r r' : PanelRegs} (hc : r.cmd ≠ some 0x2C#8)
    (h : takeData cfg d r = some r') : r'.gram = r.gram ∧ r'.cmd = r.cmd := by
  unfold takeData at h
  split at h
  · unfold dataMemAccessCtl at h; split at h <;> simp at h; subst h; simp
  · unfold dataPixelFormat at h; split at h <;> simp at h; subst h; simp
  · unfold dataColAddrSet at h
    split at h
    · simp at h; subst h; simp [keepArg]
    · split at h
      · split at h <;> simp at h; subst h; simp [keepArg]
      · simp at h
  · unfold dataRowAddrSet at h
    split at h
    · simp at h; subst h; simp [keepArg]
    · split at h
      · split at h <;> simp at h; subst h; simp [keepArg]
      · simp at h
  · rename_i hcmd
    exfalso
    cases hr : r.cmd with
    | none => simp [hr] at hcmd
    | some c =>
      simp [hr] at hcmd
      exact hc (hr.trans (congrArg some (BitVec.eq_of_toNat_eq hcmd)))
  · simp at h

/-- Data bytes outside a memory-write frame leave the pixel memory alone. -/
theorem panelData_gram {cfg : Config} {ds : List Byte} {low : Option Nat} {r r' : PanelRegs} (hc : r.cmd ≠ some 0x2C#8)
    (h : (panelData cfg ds ⟨low, some r⟩).regs = some r') : r'.gram = r.gram ∧ r'.cmd = r.cmd := by
  induction ds generalizing r with
  | nil => simp at h; subst h; exact ⟨rfl, rfl⟩
  | cons d ds ih =>
    rw [panelData_cons] at h
    cases ht : takeData cfg d r with
    | none => rw [ht] at h; simp at h
    | some q =>
      rw [ht] at h
      obtain ⟨h1, h2⟩ := takeData_gram hc ht
      obtain ⟨h3, h4⟩ := ih (h2 ▸ hc) h
      exact ⟨h3.trans h1, h4.trans h2⟩

theorem endFrame_gram (r : PanelRegs) : (endFrame r).gram = r.gram ∧ (endFrame r).mode = r.mode ∧
    (endFrame r).tOk = r.tOk ∧ (endFrame r).dispOn = r.dispOn ∧ (endFrame r).ptr = r.ptr := by
  unfold endFrame
  split <;> (try split) <;> exact ⟨rfl, rfl, rfl, rfl, rfl⟩

/-- A command byte starts its frame and leaves the pixel memory alone. -/
theorem takeCommand_gram {cfg : Config} {now : Nat} {c : Byte} {r r' : PanelRegs}
    (h : takeCommand cfg now c r = some r') : r'.gram = r.gram ∧ r'.cmd = some c := by
  have hg := (endFrame_gram r).1
  unfold takeCommand at h
  split at h
  · simp at h
  · split at h
    · simp [takeSleepOut] at h; subst h; simp [startFrame, hg]
    · unfold takeDisplayOn at h; split at h <;> simp at h; subst h; simp [startFrame, hg]
    · unfold takeColAddrSet at h; split at h <;> simp at h; subst h; simp [startFrame, hg]
    · unfold takeRowAddrSet at h; split at h <;> simp at h; subst h; simp [startFrame, hg]
    · unfold takeMemWrite at h
      split at h
      · split at h <;> simp at h; subst h; simp [startFrame, hg]
      · simp at h
    · unfold takeMemAccessCtl at h; split at h <;> simp at h; subst h; simp [startFrame, hg]
    · unfold takePixelFormat at h; split at h <;> simp at h; subst h; simp [startFrame, hg]
    · simp at h

/-- A whole frame that is no memory-write leaves the pixel memory alone. -/
theorem panelFrame_gram {cfg : Config} {now : Nat} {c : Byte} {ds : List Byte} {p : Panel} {r' : PanelRegs}
    (hc : c ≠ 0x2C#8) (h : (panelData cfg ds (panelCommand cfg now c p)).regs = some r') :
    ∃ r, p.regs = some r ∧ r'.gram = r.gram := by
  obtain ⟨low, rg⟩ := p
  cases rg with
  | none => simp at h
  | some r =>
    rw [panelCommand_some] at h
    cases ht : takeCommand cfg now c r with
    | none => rw [ht] at h; simp at h
    | some q =>
      rw [ht] at h
      obtain ⟨h1, h2⟩ := takeCommand_gram ht
      exact ⟨r, rfl, (panelData_gram (by rw [h2]; simpa using hc) h).1.trans h1⟩

/-- A command byte leaves the pixel memory alone. -/
theorem panelCommand_gram {cfg : Config} {now : Nat} {c : Byte} {p : Panel} {r' : PanelRegs}
    (h : (panelCommand cfg now c p).regs = some r') : ∃ r, p.regs = some r ∧ r'.gram = r.gram := by
  obtain ⟨low, rg⟩ := p
  cases rg with
  | none => simp at h
  | some r => exact ⟨r, rfl, (takeCommand_gram h).1⟩

end Sys2Proof.Machine
end

