-- ==== Sys2Proof/Laws/PerInstr.lean ====
section
/-! SUPPORT. Statements made for every instruction, one lemma a constructor: the encoder writes the code of the opcode
table's row (spec/opcode_table.json, match and mask) in the row's format. -/

namespace Sys2Proof.Laws.TableCode

/-- The row's match and mask, from spec/opcode_table.json. PIXEL and WINDOW fix no bit. -/
def row : Instr → Nat × Nat
  | .sleepOut _ => (0x11, 0xFF)
  | .displayOn _ => (0x29, 0xFF)
  | .colAddrSet _ => (0x2A, 0xFF)
  | .rowAddrSet _ => (0x2B, 0xFF)
  | .memWrite _ => (0x2C, 0xFF)
  | .memAccessCtl _ => (0x36, 0xFF)
  | .pixelFormat _ => (0x3A, 0xFF)
  | .setup => (0x0, 0xF)
  | .hardReset => (0x1, 0xF)
  | .initSequence => (0x2, 0xF)
  | .setAddressWindow _ _ _ _ => (0x3, 0xF)
  | .beginRamWrite => (0x4, 0xF)
  | .writeCommandByte _ => (0x5, 0xF)
  | .writeDataBytes _ => (0x6, 0xF)
  | .encode => (0x7, 0xF)
  | .present => (0x8, 0xF)
  | .clear _ => (0x9, 0xF)
  | .draw _ _ _ => (0xA, 0xF)
  | .reserved0xB => (0xB, 0xF)
  | .reserved0xC0xF _ => (0xC, 0xC)
  | .pixel _ => (0x0, 0x0)
  | .window _ _ => (0x0, 0x0)

/-- The format and the code of what is presented: the command byte, the select, or for a data format the number of bytes. -/
def codeOf : Request → Format × Nat
  | .hostop p => (.hostop, p.opSel.toNat)
  | .wire bs => (.wire, (bs.headD 0).toNat)
  | .pixel bs => (.pixel, bs.length)
  | .window bs => (.window, bs.length)

/-- The encoding of `i` is of its row's format and carries its row's code. -/
def Statement (i : Instr) : Prop :=
  (codeOf (Sys2Proof.encode i)).1 = i.format ∧ (codeOf (Sys2Proof.encode i)).2 &&& (row i).2 = (row i).1

theorem sleepOut (d : List Byte) : Statement (.sleepOut d) := ⟨rfl, by change 0x11 &&& 0xFF = 0x11; decide⟩
theorem displayOn (d : List Byte) : Statement (.displayOn d) := ⟨rfl, by change 0x29 &&& 0xFF = 0x29; decide⟩
theorem colAddrSet (d : List Byte) : Statement (.colAddrSet d) := ⟨rfl, by change 0x2A &&& 0xFF = 0x2A; decide⟩
theorem rowAddrSet (d : List Byte) : Statement (.rowAddrSet d) := ⟨rfl, by change 0x2B &&& 0xFF = 0x2B; decide⟩
theorem memWrite (d : List Byte) : Statement (.memWrite d) := ⟨rfl, by change 0x2C &&& 0xFF = 0x2C; decide⟩
theorem memAccessCtl (d : List Byte) : Statement (.memAccessCtl d) := ⟨rfl, by change 0x36 &&& 0xFF = 0x36; decide⟩
theorem pixelFormat (d : List Byte) : Statement (.pixelFormat d) := ⟨rfl, by change 0x3A &&& 0xFF = 0x3A; decide⟩
theorem setup : Statement .setup := ⟨rfl, by change 0x0 &&& 0xF = 0x0; decide⟩
theorem hardReset : Statement .hardReset := ⟨rfl, by change 0x1 &&& 0xF = 0x1; decide⟩
theorem initSequence : Statement .initSequence := ⟨rfl, by change 0x2 &&& 0xF = 0x2; decide⟩
theorem setAddressWindow (x0 : Int) (y0 : Int) (x1 : Int) (y1 : Int) : Statement (.setAddressWindow x0 y0 x1 y1) := ⟨rfl, by change 0x3 &&& 0xF = 0x3; decide⟩
theorem beginRamWrite : Statement .beginRamWrite := ⟨rfl, by change 0x4 &&& 0xF = 0x4; decide⟩
theorem writeCommandByte (b : Byte) : Statement (.writeCommandByte b) := ⟨rfl, by change 0x5 &&& 0xF = 0x5; decide⟩
theorem writeDataBytes (bs : List Byte) : Statement (.writeDataBytes bs) := ⟨rfl, by change 0x6 &&& 0xF = 0x6; decide⟩
theorem encode : Statement .encode := ⟨rfl, by change 0x7 &&& 0xF = 0x7; decide⟩
theorem present : Statement .present := ⟨rfl, by change 0x8 &&& 0xF = 0x8; decide⟩
theorem clear (c : Colour) : Statement (.clear c) := ⟨rfl, by change 0x9 &&& 0xF = 0x9; decide⟩
theorem draw (x : Int) (y : Int) (c : Colour) : Statement (.draw x y c) := ⟨rfl, by change 0xA &&& 0xF = 0xA; decide⟩
theorem reserved0xB : Statement .reserved0xB := ⟨rfl, by change 0xB &&& 0xF = 0xB; decide⟩
theorem reserved0xC0xF (low : BitVec 2) : Statement (.reserved0xC0xF low) := by
  refine ⟨rfl, ?_⟩
  revert low
  decide
theorem pixel (v : Word16) : Statement (.pixel v) := ⟨rfl, by change 2 &&& 0 = 0; decide⟩
theorem window (s : Word16) (e : Word16) : Statement (.window s e) := ⟨rfl, by change 4 &&& 0 = 0; decide⟩

end Sys2Proof.Laws.TableCode
end

