-- ==== Sys2Proof/Laws/Step.lean ====
section
/-! SUPPORT. What one step can do, said once: the operation each instruction asks for, one step of the sequencer, an
operation run to its end as steps of the sequencer, and the induction every invariant of the machine goes through. -/

namespace Sys2Proof.Machine

/-- The operation an instruction asks for; none for the rows that reach the panel directly. -/
def askOf (i : Instr) (s : State) : Option Ask :=
  match i with
  | .sleepOut _ | .displayOn _ | .colAddrSet _ | .rowAddrSet _ | .memWrite _ | .memAccessCtl _ | .pixelFormat _
  | .pixel _ | .window _ _ => none
  | .setup => some (askSetup s)
  | .hardReset => some (askHardReset s)
  | .initSequence => some (askInitSequence s)
  | .setAddressWindow x0 y0 x1 y1 => some (askSetAddressWindow x0 y0 x1 y1 s)
  | .beginRamWrite => some (askBeginRamWrite s)
  | .writeCommandByte b => some (askWriteCommandByte b s)
  | .writeDataBytes bs => some (askWriteDataBytes bs s)
  | .encode => some (askEncode s)
  | .present => some (askPresent s)
  | .clear c => some (askClear c s)
  | .draw x y c => some (askDraw x y c s)
  | .reserved0xB => some (askReserved0xB s)
  | .reserved0xC0xF low => some (askReserved0xC0xF low s)

/-- Every instruction runs an operation, or is a frame or data bytes at the panel. -/
theorem exec_cases (i : Instr) (s : State) :
    (∃ a, askOf i s = some a ∧ exec i s = perform a s ∧ begin i s = launch a s) ∨
    (∃ c data, ∀ u, askOf i u = none ∧ exec i u = arriveFrame c data u ∧ begin i u = arriveFrame c data u) ∨
    (∃ data, ∀ u, askOf i u = none ∧ exec i u = arriveData data u ∧ begin i u = arriveData data u) := by
  cases i
  case sleepOut d => exact .inr (.inl ⟨_, d, fun _ => ⟨rfl, rfl, rfl⟩⟩)
  case displayOn d => exact .inr (.inl ⟨_, d, fun _ => ⟨rfl, rfl, rfl⟩⟩)
  case colAddrSet d => exact .inr (.inl ⟨_, d, fun _ => ⟨rfl, rfl, rfl⟩⟩)
  case rowAddrSet d => exact .inr (.inl ⟨_, d, fun _ => ⟨rfl, rfl, rfl⟩⟩)
  case memWrite d => exact .inr (.inl ⟨_, d, fun _ => ⟨rfl, rfl, rfl⟩⟩)
  case memAccessCtl d => exact .inr (.inl ⟨_, d, fun _ => ⟨rfl, rfl, rfl⟩⟩)
  case pixelFormat d => exact .inr (.inl ⟨_, d, fun _ => ⟨rfl, rfl, rfl⟩⟩)
  case pixel v => exact .inr (.inr ⟨_, fun _ => ⟨rfl, rfl, rfl⟩⟩)
  case window a b => exact .inr (.inr ⟨_, fun _ => ⟨rfl, rfl, rfl⟩⟩)
  all_goals exact .inl ⟨_, rfl, rfl, rfl⟩

/-- Everything one step of the sequencer can do. -/
theorem tick_cases (s : State) :
    tick s = s ∨
    (∃ o, s.busy = true ∧ s.op = some o ∧ o.items[s.seq]? = none ∧ tick s = complete s) ∨
    ∃ o it, s.busy = true ∧ s.op = some o ∧ o.items[s.seq]? = some it ∧
      ((tick s = happen it s ∧ (itemTransfers it = 1 → transferAnswer s.world 0 = .complete) ∧
          (itemCalls it = 1 → callAnswer s.world 0 = true)) ∨
        (∃ bs k, it.event = .xfer bs ∧ transferAnswer s.world 0 = .fail k ∧
          tick s = failTransfer it (bs.take k) (takeTransferAnswer s)) ∨
        (itemCalls it = 1 ∧ callAnswer s.world 0 = false ∧
          tick s = raise .transport (applyEdits it.onFail (takeCallAnswer s)))) := by
  cases hb : s.busy with
  | false => exact .inl (by simp [tick, hb])
  | true =>
    cases ho : s.op with
    | none => exact .inl (by simp [tick, hb, ho])
    | some o =>
      cases hg : o.items[s.seq]? with
      | none => exact .inr (.inl ⟨o, rfl, rfl, hg, by simp [tick, hb, ho, hg]⟩)
      | some it =>
        rcases doItem_cases it s with ⟨h, h1, h2⟩ | ⟨bs, k, h1, h2, h⟩ | ⟨h1, h2, h⟩ | ⟨bs, h1, h2, h⟩
        · exact .inr (.inr ⟨o, it, rfl, rfl, hg, .inl ⟨by simp [tick, hb, ho, hg, h], h1, h2⟩⟩)
        · exact .inr (.inr ⟨o, it, rfl, rfl, hg, .inr (.inl ⟨bs, k, h1, h2, by simp [tick, hb, ho, hg, h]⟩)⟩)
        · exact .inr (.inr ⟨o, it, rfl, rfl, hg, .inr (.inr ⟨h1, h2, by simp [tick, hb, ho, hg, h]⟩)⟩)
        · exact .inl (by simp [tick, hb, ho, hg, h])

/-- Running the rest of a list is stepping the sequencer some number of times. -/
theorem runItems_eq_ticks (items : List Item) (u : State) (i : Instr) (all : List Item) (hb : u.busy = true)
    (ho : u.op = some ⟨i, all⟩) (hd : all.drop u.seq = items) : ∃ n, tick^[n] u = runItems items u := by
  induction items generalizing u with
  | nil =>
    have : all[u.seq]? = none := by
      have h : all.length - u.seq = 0 := by simpa using congrArg List.length hd
      rw [List.getElem?_eq_none]; omega
    exact ⟨1, by simp [tick, hb, ho, this, runItems]⟩
  | cons it is ih =>
    have hget : all[u.seq]? = some it := by
      have h : (all.drop u.seq)[0]? = some it := by rw [hd]; rfl
      simpa using h
    have hdrop : all.drop (u.seq + 1) = is := by
      have : (all.drop u.seq).drop 1 = is := by rw [hd]; rfl
      simpa [List.drop_drop, Nat.add_comm] using this
    cases hdo : doItem it u with
    | done v =>
      have hv : v = happen it u := by
        rcases doItem_cases it u with ⟨h, -⟩ | ⟨_, _, _, _, h⟩ | ⟨_, _, h⟩ | ⟨_, _, _, h⟩ <;> rw [h] at hdo <;>
          simp at hdo
        exact hdo.symm
      have hf := happen_fields it u
      rw [← hv] at hf
      obtain ⟨n, hn⟩ := ih v (by rw [hf.2.1, hb]) (by rw [hf.2.2.1, ho]) (by rw [hf.2.2.2.1, hdrop])
      refine ⟨n + 1, ?_⟩
      rw [Function.iterate_succ_apply]
      have : tick u = v := by simp [tick, hb, ho, hget, hdo]
      rw [this, hn]; simp [runItems, hdo]
    | failed v => exact ⟨1, by simp [tick, hb, ho, hget, hdo, runItems]⟩
    | stalled v => exact ⟨1, by simp [tick, hb, ho, hget, hdo, runItems]⟩

/-- What is read at the host's ports asks for an operation. -/
theorem askOf_decodeHostop (p : HostPort) (s : State) : ∃ a, askOf (decodeHostop p) s = some a := by
  unfold decodeHostop
  split <;> exact ⟨_, rfl⟩

/-- What a property must survive for every operation to keep it. -/
structure KeptOps (P : State → Prop) : Prop where
  race : ∀ s, P s → P (setRace s)
  configuration : ∀ s, s.busy = false → P s → P (endOp .configuration s)
  latch : ∀ i a s, askOf i s = some a → a.illegal = false → a.stop = none → s.busy = false → P s → P (latch a s)
  tick : ∀ s, P s → P (tick s)

/-- What a property must survive for every instruction to keep it. -/
structure Kept (P : State → Prop) : Prop extends KeptOps P where
  frame : ∀ c data s t, arriveFrame c data s = .next t → P s → P t
  data : ∀ data s t, arriveData data s = .next t → P s → P t

/-- Issuing an operation keeps what survives its parts, however far the sequencer takes it. -/
theorem KeptOps.issue {P : State → Prop} (k : KeptOps P) {i : Instr} {a : Ask} {go : State → State} {s t : State}
    (ha : askOf i s = some a) (hgo : ∃ n, go (Machine.latch a s) = Machine.tick^[n] (Machine.latch a s))
    (h : Machine.issue a go s = .next t) (hp : P s) : P t := by
  rcases issue_cases a go s with ⟨-, h'⟩ | ⟨-, -, h'⟩ | ⟨-, h2, -, h'⟩ | ⟨-, -, -, r, -, h'⟩ |
    ⟨-, h2, h3, h4, h'⟩ <;> rw [h'] at h <;> simp only [Host.Outcome.next.injEq, reduceCtorEq] at h <;> subst h
  · exact k.race s hp
  · exact k.configuration s h2 hp
  · obtain ⟨n, hn⟩ := hgo
    rw [hn]
    have h0 := k.latch i a s ha h3 h4 h2 hp
    clear hn h'
    induction n with
    | zero => exact h0
    | succ n ih => rw [Function.iterate_succ_apply']; exact k.tick _ ih

/-- An operation keeps what survives its parts. -/
theorem KeptOps.exec {P : State → Prop} (k : KeptOps P) {i : Instr} {a : Ask} {s t : State} (ha : askOf i s = some a)
    (h : exec i s = .next t) (hp : P s) : P t := by
  rcases exec_cases i s with ⟨b, hb, he, -⟩ | ⟨c, data, he⟩ | ⟨data, he⟩
  · rw [he] at h
    obtain ⟨n, hn⟩ := runItems_eq_ticks b.items (Machine.latch b s) b.instr b.items rfl rfl rfl
    exact k.issue hb ⟨n, hn.symm⟩ h hp
  · rw [(he s).1] at ha; cases ha
  · rw [(he s).1] at ha; cases ha

/-- Starting an operation keeps what survives its parts. -/
theorem KeptOps.begin {P : State → Prop} (k : KeptOps P) {i : Instr} {a : Ask} {s t : State} (ha : askOf i s = some a)
    (h : begin i s = .next t) (hp : P s) : P t := by
  rcases exec_cases i s with ⟨b, hb, -, he⟩ | ⟨c, data, he⟩ | ⟨data, he⟩
  · rw [he] at h
    exact k.issue hb ⟨0, rfl⟩ h hp
  · rw [(he s).1] at ha; cases ha
  · rw [(he s).1] at ha; cases ha

/-- An instruction keeps what survives its parts. -/
theorem Kept.exec {P : State → Prop} (k : Kept P) {i : Instr} {s t : State} (h : exec i s = .next t) (hp : P s) : P t := by
  rcases exec_cases i s with ⟨a, ha, -⟩ | ⟨c, data, he⟩ | ⟨data, he⟩
  · exact k.toKeptOps.exec ha h hp
  · exact k.frame c data s t ((he s).2.1 ▸ h) hp
  · exact k.data data s t ((he s).2.1 ▸ h) hp

/-- A move on a button keeps what it keeps at every pin. -/
theorem onButton_keeps {P : State → Prop} {button : Nat} {f : Nat → State → State} {s : State}
    (hf : ∀ pin s, P s → P (f pin s)) (hp : P s) : P (onButton button f s) := by
  unfold onButton
  split
  · exact hf _ _ hp
  · exact hp

/-- A move keeps what every operation, the list of moves and the Input Watcher keep. -/
theorem KeptOps.move {P : State → Prop} (k : KeptOps P) (hin : ∀ s l, P s → P { s with inputs := l })
    (hcfg : ∀ pull pin s, P s → P (configurePin pull pin s))
    (hreg : ∀ cb pin s, P s → P (registerPin cb pin s)) (hclr : ∀ pin s, P s → P (clearPin pin s))
    {m : Move} {rest : List Move} {s t : State} (h : doMove m rest s = .next t) (hp : P s) : P t := by
  have hc : P (consume rest s) := hin s rest hp
  cases m with
  | call p =>
    simp only [doMove] at h
    split at h
    · simp only [Host.Outcome.next.injEq] at h; subst h; exact k.tick s hp
    · obtain ⟨a, ha⟩ := askOf_decodeHostop p (consume rest s)
      exact k.exec ha h hc
  | async p =>
    obtain ⟨a, ha⟩ := askOf_decodeHostop p (consume rest s)
    exact k.begin ha h hc
  | tick => simp only [doMove, Host.Outcome.next.injEq] at h; subst h; exact k.tick _ hc
  | configureInput b pull =>
    simp only [doMove, Host.Outcome.next.injEq] at h; subst h; exact onButton_keeps (hcfg _) hc
  | register b cb => simp only [doMove, Host.Outcome.next.injEq] at h; subst h; exact onButton_keeps (hreg _) hc
  | rebind b cb =>
    simp only [doMove, Host.Outcome.next.injEq] at h
    subst h
    refine onButton_keeps (fun pin u hu => ?_) hc
    unfold rebindPin
    split
    · exact hreg _ _ _ (hclr _ _ hu)
    · exact hreg _ _ _ (hclr _ _ (hreg _ _ _ (hclr _ _ hu)))
  | unbind b => simp only [doMove, Host.Outcome.next.injEq] at h; subst h; exact onButton_keeps hclr hc
  | edge b =>
    simp only [doMove, Host.Outcome.next.injEq] at h; subst h; exact onButton_keeps (fun _ _ hu => hin _ _ hu) hc

/-- With nothing presented, a step is a step of the sequencer or a move. -/
theorem step_cases {s t : State} (h : step s = .next t) (hp : s.presented = []) :
    t = tick s ∨ ∃ m rest, s.inputs = m :: rest ∧ doMove m rest s = .next t := by
  unfold step advance at h
  split at h
  · cases h
  · rw [hp] at h
    cases hi : s.inputs with
    | nil => rw [hi] at h; cases h; exact .inl rfl
    | cons m rest => rw [hi] at h; exact .inr ⟨m, rest, rfl, h⟩

/-- A step keeps what every instruction, the list of moves, what is presented and the Input Watcher keep. -/
theorem Kept.step {P : State → Prop} (k : Kept P) (hin : ∀ s l, P s → P { s with inputs := l })
    (hpr : ∀ s l, P s → P { s with presented := l })
    (hcfg : ∀ pull pin s, P s → P (configurePin pull pin s))
    (hreg : ∀ cb pin s, P s → P (registerPin cb pin s)) (hclr : ∀ pin s, P s → P (clearPin pin s))
    {s t : State} (h : step s = .next t) (hp : P s) : P t := by
  cases hs : s.presented with
  | nil =>
    rcases step_cases h hs with rfl | ⟨m, rest, -, h⟩
    · exact k.tick s hp
    · exact k.toKeptOps.move hin hcfg hreg hclr h hp
  | cons r rest =>
    unfold Machine.step advance at h
    rw [hs] at h
    split at h
    · cases h
    · simp only at h
      split at h
      · cases h; exact k.tick s hp
      · unfold serve at h
        split at h
        · exact k.exec h (hpr s rest hp)
        · rename_i e _
          cases e <;> simp only [undecodable, reduceCtorEq] at h
          exact k.frame _ _ _ _ h (hpr s rest hp)

end Sys2Proof.Machine
end

