-- ==== Sys2Proof/Tests/Slice0.lean ====
section
/-! SUPPORT. Tests of single steps, each expected value from spec/ (95_test_vectors.md unless another file is named), and
for every statement with hypotheses a state and operands that meet them. -/

namespace Sys2Proof.Tests.Slice0

open Sys2Proof Sys2Proof.Machine Sys2Proof.Safety

/-! ### A bench: a 2 × 2 block, four bytes a transfer, after SETUP, whose next answers are given. -/

/-- W = H = 2, `CHUNK_BYTES` 4 (program P3), the OPEN parameters at numbers of the test's own. -/
def benchCfg : Config where
  width := 2
  height := 2
  rot := .cw90
  madctlByte := 0x70#8
  colmodByte := 0x55#8
  resetSettleMs := 10
  sleepOutMs := 120
  chunkBytes := 4
  spiMode := 0
  spiHzMax := 40000000
  spiHz := 40000000
  spiBus := 0
  spiDevice := 1
  pinReset := 27
  pinDc := 25
  pinBacklight := 24
  pinCs := 8
  buttonPins := [5]
  debounceMs := 300

/-- Every call succeeds and no time passes but the waits. -/
def goodWorld : World :=
  ⟨⟨List.replicate 32 .complete, 0⟩, ⟨[true, true, true], 0⟩, ⟨List.replicate 64 0, 0⟩, ⟨[true, true], 0⟩⟩

/-- The picture of program P3: red, green, blue, white. -/
def picture : Memory Colour := [(0, ⟨255, 0, 0⟩), (1, ⟨0, 255, 0⟩), (2, ⟨0, 0, 255⟩), (3, ⟨255, 255, 255⟩)]

/-- An awake and configured receiver after INIT_SEQUENCE (vector P2). -/
def awakeRegs : PanelRegs where
  mode := .awake
  tOk := 0
  madctl := some 0x70#8
  colmod := some 0x55#8
  dispOn := some true
  xs := none
  xe := none
  ys := none
  ye := none
  cmd := some 0x29#8
  idx := 0
  args := []
  ptr := .none
  latch := none
  gram := []

/-- The state the tests start from. -/
def bench : State where
  cfg := benchCfg
  busy := false
  op := none
  seq := 0
  err := .none
  race := false
  busOpen := true
  pins := ⟨.driven .high, .driven .low, .driven .high⟩
  canvas := picture
  shadow := ⟨.awake, some 0x70#8, some 0x55#8, some true, none, false⟩
  trace := [.pin .dc .low]
  encOut := []
  panel := ⟨none, some awakeRegs⟩
  now := 0
  world := goodWorld
  watcher := ⟨[], none, []⟩
  presented := []
  inputs := []

/-- The bench before SETUP. -/
def cold : State :=
  { bench with
    busOpen := false
    pins := ⟨.unconfigured, .unconfigured, .unconfigured⟩
    shadow := Shadow.unknown
    trace := []
    panel := Panel.undefined }

/-- The bench whose transfers answer as given. -/
def answering (l : List TransferAnswer) : State := { bench with world := { goodWorld with transfers := ⟨l, 0⟩ } }

/-- The bench with other receiver registers. -/
def withRegs (r : PanelRegs) : State := { bench with panel := ⟨none, some r⟩ }

/-- A window over the whole 2 × 2 panel is set. -/
def windowRegs : PanelRegs := { awakeRegs with xs := some 0, xe := some 1, ys := some 0, ye := some 1 }

/-- A memory-write frame at a pointer. -/
def writing (p : Ptr) (l : Option Byte) : PanelRegs := { windowRegs with cmd := some 0x2C#8, ptr := p, latch := l }

/-- A field of the next state. -/
def look {α : Type} (f : State → α) : Host.Outcome State Fault Refusal → Option α
  | .next t => some (f t)
  | .fault _ => none
  | .refused _ => none

/-- Run an instruction and look at a field. -/
def after {α : Type} (i : Instr) (s : State) (f : State → α) : Option α := look f (exec i s)

/-- The events an instruction adds to the trace. -/
def news (i : Instr) (s : State) : Option (List Event) := after i s fun t => t.trace.drop s.trace.length

/-! ### WellFormed: each check refuses (10_state.md R41) -/

theorem test_illformed_window_x0 : Instr.wellFormed (.setAddressWindow 32768 0 0 0) = false := by decide
theorem test_illformed_window_y0 : Instr.wellFormed (.setAddressWindow 0 (-32769) 0 0) = false := by decide
theorem test_illformed_window_x1 : Instr.wellFormed (.setAddressWindow 0 0 32768 0) = false := by decide
theorem test_illformed_window_y1 : Instr.wellFormed (.setAddressWindow 0 0 0 (-32769)) = false := by decide
theorem test_illformed_draw_x : Instr.wellFormed (.draw 32768 0 ⟨0, 0, 0⟩) = false := by decide
theorem test_illformed_draw_y : Instr.wellFormed (.draw 0 (-32769) ⟨0, 0, 0⟩) = false := by decide
theorem test_wellformed_window : Instr.wellFormed (.setAddressWindow (-32768) 32767 32767 (-32768)) = true := by decide
theorem test_wellformed_draw : Instr.wellFormed (.draw 32767 (-32768) ⟨0, 0, 0⟩) = true := by decide

/-! ### Decode: the words of 30_encoding.md R73, R74, R76, R84, bit by bit -/

theorem test_decode_sleepOut : decode (.wire [0b00010001#8]) = .ok (.sleepOut []) := by decide
theorem test_decode_displayOn : decode (.wire [0b00101001#8]) = .ok (.displayOn []) := by decide
theorem test_decode_colAddrSet : decode (.wire [0b00101010#8, 0x00#8, 0x00#8, 0x00#8, 0xEF#8]) =
    .ok (.colAddrSet [0x00#8, 0x00#8, 0x00#8, 0xEF#8]) := by decide
theorem test_decode_rowAddrSet : decode (.wire [0b00101011#8, 0x00#8, 0x14#8, 0x00#8, 0x28#8]) =
    .ok (.rowAddrSet [0x00#8, 0x14#8, 0x00#8, 0x28#8]) := by decide
theorem test_decode_memWrite : decode (.wire [0b00101100#8, 0x12#8, 0x34#8, 0x56#8]) =
    .ok (.memWrite [0x12#8, 0x34#8, 0x56#8]) := by decide
theorem test_decode_memAccessCtl : decode (.wire [0b00110110#8, 0x70#8]) = .ok (.memAccessCtl [0x70#8]) := by decide
theorem test_decode_pixelFormat : decode (.wire [0b00111010#8, 0x55#8]) = .ok (.pixelFormat [0x55#8]) := by decide
theorem test_decode_setup : decode (.hostop (.select 0b0000#4)) = .ok .setup := by decide
theorem test_decode_hardReset : decode (.hostop (.select 0b0001#4)) = .ok .hardReset := by decide
theorem test_decode_initSequence : decode (.hostop (.select 0b0010#4)) = .ok .initSequence := by decide
/-- a0 to a3 are x0, y0, x1, y1 (R84), and the ports are signed (10_state.md R41). -/
theorem test_decode_setAddressWindow : decode (.hostop { HostPort.select 0b0011#4 with
    a0 := 0b0000000000001010#16, a1 := 0b1111111111111111#16, a2 := 0b0000000000011110#16,
    a3 := 0b0111111111111111#16 }) = .ok (.setAddressWindow 10 (-1) 30 32767) := by decide
theorem test_decode_beginRamWrite : decode (.hostop (.select 0b0100#4)) = .ok .beginRamWrite := by decide
theorem test_decode_writeCommandByte : decode (.hostop { HostPort.select 0b0101#4 with cmdByte := 0b00100001#8 }) =
    .ok (.writeCommandByte 0x21#8) := by decide
theorem test_decode_writeDataBytes : decode (.hostop { HostPort.select 0b0110#4 with payload := [0x2A#8, 0x2C#8] }) =
    .ok (.writeDataBytes [0x2A#8, 0x2C#8]) := by decide
theorem test_decode_encode : decode (.hostop (.select 0b0111#4)) = .ok .encode := by decide
theorem test_decode_present : decode (.hostop (.select 0b1000#4)) = .ok .present := by decide
/-- `colour[23:0]` is `{r, g, b}` (10_state.md R37). -/
theorem test_decode_clear : decode (.hostop { HostPort.select 0b1001#4 with colour := 0b000100100011010001010110#24 }) =
    .ok (.clear ⟨0x12#8, 0x34#8, 0x56#8⟩) := by decide
theorem test_decode_draw : decode (.hostop { HostPort.select 0b1010#4 with
    a0 := 0b0000000000000000#16, a1 := 0b1111111111111111#16, colour := 0b000000010000001000000011#24 }) =
    .ok (.draw 0 (-1) ⟨1, 2, 3⟩) := by decide
theorem test_decode_reserved0xB : decode (.hostop (.select 0b1011#4)) = .ok .reserved0xB := by decide
theorem test_decode_reserved0xC0xF : decode (.hostop (.select 0b1100#4)) = .ok (.reserved0xC0xF 0b00#2) ∧
    decode (.hostop (.select 0b1111#4)) = .ok (.reserved0xC0xF 0b11#2) := by decide
theorem test_decode_pixel : decode (.pixel [0b11111000#8, 0b00011111#8]) = .ok (.pixel 0b1111100000011111#16) := by decide
theorem test_decode_window : decode (.window [0b00000000#8, 0b00001010#8, 0b00000001#8, 0b00111111#8]) =
    .ok (.window 10#16 319#16) := by decide

/-- What is no instruction is refused by name (R73, R74, R76). -/
theorem test_decode_rejects : decode (.wire []) = .error .emptyFrame ∧
    decode (.wire [0x21#8, 0x01#8]) = .error (.foreignOpcode 0x21#8 [0x01#8]) ∧
    decode (.pixel [0x00#8]) = .error (.pixelLength 1) ∧
    decode (.window [0x00#8, 0x00#8, 0x00#8]) = .error (.windowLength 3) := by decide

/-- Numbers of the opcode table. -/
theorem test_table_words : decodeTableWord 8 0x36 = some (.memAccessCtl [0#8]) ∧ decodeTableWord 8 0x2C = some (.memWrite []) ∧
    decodeTableWord 8 0xA = some (.draw 0 0 ⟨0, 0, 0⟩) ∧ decodeTableWord 8 0xF = some (.reserved0xC0xF 3) ∧
    decodeTableWord 8 0x21 = none ∧ decodeTableWord 16 0x11AA = some (.pixel 0x11AA#16) := by decide

/-- A placed word is what the next step runs: RESERVED_0xB raises ConfigurationError (R85). -/
theorem test_withFetchWord : look (fun t => (t.err, t.presented, t.trace)) (step (bench.withFetchWord 8 0xB)) =
    some (.configuration, [], [.pin .dc .low]) := by decide

/-! ### The encoder's formulas (section 2.3) -/

theorem test_pack : pack565 ⟨18, 52, 86⟩ = 0x11AA#16 ∧ pack565 ⟨255, 0, 255⟩ = 0xF81F#16 ∧ pack565 ⟨7, 3, 7⟩ = 0#16 ∧
    pack565 ⟨8, 4, 8⟩ = 0x0821#16 ∧ pack565 ⟨247, 251, 247⟩ = 0xF7DE#16 ∧ pack565 ⟨0, 255, 0⟩ = 0x07E0#16 := by decide
theorem test_unpack : unpack565 0xAE7D#16 = ⟨168, 204, 232⟩ ∧ unpack565 0xFFFF#16 = ⟨248, 252, 248⟩ := by decide
theorem test_rotation : rotSrc .cw90 240 240 10 20 = (20, 229) ∧ rotSrc .ccw90 240 240 10 20 = (219, 10) ∧
    rotSrc .cw90 240 240 239 239 = (239, 0) ∧ rotSrc .ccw90 240 240 0 0 = (239, 0) := by decide
theorem test_chunks : (chunks benchCfg [1, 2, 3, 4, 5, 6, 7, 8, 9]).map List.length = [4, 4, 1] ∧
    (chunks { benchCfg with chunkBytes := 3 } [1, 2, 3, 4, 5, 6, 7]).map List.length = [3, 3, 1] ∧
    chunks benchCfg [1, 2, 3, 4] = [[1, 2, 3, 4]] ∧ chunks benchCfg [] = [] := by decide

/-! ### Host operations -/

/-- V-SU. -/
theorem test_setup : news .setup cold = some [.pinOut .reset, .pinOut .dc, .pinOut .backlight, .pin .backlight .high,
    .spiOpen 0 1, .spiClk 40000000, .spiMode 0] ∧
    after .setup cold (fun t => (t.busOpen, t.pins)) = some (true, ⟨.outUndriven, .outUndriven, .driven .high⟩) := by decide
/-- V-SU-F and V-SU-G. -/
theorem test_setup_fails : after .setup { cold with world := { goodWorld with calls := ⟨[false], 0⟩ } }
      (fun t => (t.err, t.busOpen, t.trace.length, t.pins.backlight)) = some (.transport, false, 4, .driven .high) ∧
    after .setup { cold with cfg := { benchCfg with height := 3 } } (fun t => (t.err, t.trace)) =
      some (.configuration, []) := by decide
/-- The bench after a SETUP that failed at open. -/
def halfSetUp : State := { cold with pins := ⟨.outUndriven, .outUndriven, .driven .high⟩ }
/-- Three events of a SETUP: after one that failed the backlight stays on (43_display_session.md R145), and on a cold block it is
an output whose level is not yet set (10_state.md R23). -/
theorem test_setup_again : look (fun t => (t.trace.length, t.pins))
      (Sys2Proof.core.run 4 { halfSetUp with inputs := [.async (.select 0x0)] }) =
      some (3, ⟨.outUndriven, .outUndriven, .driven .high⟩) ∧
    look (fun t => t.pins.backlight) (Sys2Proof.core.run 4 { cold with inputs := [.async (.select 0x0)] }) =
      some .outUndriven := by decide
/-- V-HR and P1. -/
theorem test_hardReset : news .hardReset bench = some [.pin .reset .high, .wait 10, .pin .reset .low, .wait 10,
    .pin .reset .high, .wait 10] ∧
    after .hardReset bench (fun t => (t.panel, t.shadow, t.now)) =
      some (⟨none, some (resetRegs benchCfg 20000)⟩, ⟨.asleep, none, none, none, none, false⟩, 30000) := by decide
/-- V-IS and P2. -/
theorem test_initSequence : news .initSequence bench = some [.pin .dc .low, .xfer [0x11#8], .wait 120, .pin .dc .low, .xfer [0x36#8],
      .pin .dc .high, .xfer [0x70#8], .pin .dc .low, .xfer [0x3A#8], .pin .dc .high, .xfer [0x55#8], .pin .dc .low,
      .xfer [0x29#8]] := by decide
/-- V-IS-F4: the fourth transfer fails, nothing delivered. -/
theorem test_initSequence_fails : after .initSequence (answering [.complete, .complete, .complete, .fail 0])
    (fun t => (t.err, t.trace.length, t.shadow)) =
    some (.transport, 9, ⟨.awake, some 0x70#8, none, some true, none, false⟩) := by decide
/-- W4's layout at a 2 × 2 panel, x pair then y pair. -/
theorem test_setAddressWindow : news (.setAddressWindow 0 1 1 1) bench = some [.pin .dc .low, .xfer [0x2A#8], .pin .dc .high,
    .xfer [0x00#8, 0x00#8, 0x00#8, 0x01#8], .pin .dc .low, .xfer [0x2B#8], .pin .dc .high,
    .xfer [0x00#8, 0x01#8, 0x00#8, 0x01#8]] := by decide
/-- W6 to W12 at a 2 × 2 panel: each bound, one past its limit. X3: the transfer that would fail is not attempted. -/
theorem test_setAddressWindow_bounds :
    ([⟨1, 0, 0, 0⟩, ⟨0, 1, 0, 0⟩, ⟨0, 0, 2, 0⟩, ⟨0, 0, 0, 2⟩, ⟨-1, 0, 0, 0⟩, ⟨0, -1, 0, 0⟩, ⟨1, 1, 0, 5⟩] : List Window).map
      (fun w => after (.setAddressWindow w.x0 w.y0 w.x1 w.y1) (answering [.fail 0]) (fun t => (t.err, t.trace, t.shadow))) =
    List.replicate 7 (some (.configuration, bench.trace, bench.shadow)) := by decide
/-- V-RW. -/
theorem test_beginRamWrite : news .beginRamWrite bench = some [.pin .dc .low, .xfer [0x2C#8]] ∧
    after .beginRamWrite bench (fun t => t.shadow.ramwr) = some true := by decide
/-- X7 and X9. -/
theorem test_writeCommandByte : after (.writeCommandByte 0x11#8) bench (fun t => (t.shadow, ready t)) =
      some (⟨.unknown, some 0x70#8, some 0x55#8, some true, none, false⟩, false) ∧
    after (.writeCommandByte 0x21#8) bench (fun t => (t.shadow, t.panel.regs)) =
      some (⟨.unknown, none, none, none, none, false⟩, none) := by decide
/-- B14. -/
theorem test_writeCommandByte_fails : news (.writeCommandByte 0x11#8) (answering [.fail 0]) = some [.pin .dc .low] ∧
    after (.writeCommandByte 0x11#8) (answering [.fail 0]) (fun t => t.err) = some .transport := by decide
/-- B4 and B7. -/
theorem test_writeDataBytes : news (.writeDataBytes []) bench = some [.pin .dc .high] ∧
    news (.writeDataBytes [1, 2, 3, 4, 5]) bench = some [.pin .dc .high, .xfer [1, 2, 3, 4], .xfer [5]] := by decide
/-- B12 and B13. -/
theorem test_writeDataBytes_fails : news (.writeDataBytes [1, 2, 3, 4, 5, 6]) (answering [.complete, .fail 0]) =
      some [.pin .dc .high, .xfer [1, 2, 3, 4]] ∧
    news (.writeDataBytes [1, 2, 3, 4, 5, 6]) (answering [.complete, .fail 1]) =
      some [.pin .dc .high, .xfer [1, 2, 3, 4], .xfer [5]] := by decide
/-- P3's bytes for both rotations. -/
theorem test_encode : after .encode bench (fun t => (t.encOut, t.trace)) =
      some ([0x00#8, 0x1F#8, 0xF8#8, 0x00#8, 0xFF#8, 0xFF#8, 0x07#8, 0xE0#8], bench.trace) ∧
    after .encode { bench with cfg := { benchCfg with rot := .ccw90 } } (fun t => t.encOut) =
      some [0x07#8, 0xE0#8, 0xFF#8, 0xFF#8, 0xF8#8, 0x00#8, 0x00#8, 0x1F#8] := by decide
/-- P3, step 6, its events. -/
theorem test_present : news .present bench = some [.pin .dc .low, .xfer [0x2A#8], .pin .dc .high,
    .xfer [0x00#8, 0x00#8, 0x00#8, 0x01#8], .pin .dc .low, .xfer [0x2B#8], .pin .dc .high,
    .xfer [0x00#8, 0x00#8, 0x00#8, 0x01#8], .pin .dc .low, .xfer [0x2C#8], .pin .dc .high,
    .xfer [0x00#8, 0x1F#8, 0xF8#8, 0x00#8], .xfer [0xFF#8, 0xFF#8, 0x07#8, 0xE0#8]] := by decide
/-- P3 and P4, step 4: the receiver after a whole PRESENT, and after one whose last transfer delivers one byte. -/
theorem test_present_panel : after .present bench (fun t => t.panel.regs.map fun r => (r.gram, r.ptr, r.latch)) =
      some (some ([(0, 0x001F#16), (1, 0xF800#16), (2, 0xFFFF#16), (3, 0x07E0#16)], .pastEnd, none)) ∧
    after .present (answering (List.replicate 6 .complete ++ [.fail 1]))
        (fun t => t.panel.regs.map fun r => (r.gram, r.ptr, r.latch)) =
      some (some ([(0, 0x001F#16), (1, 0xF800#16)], .pos 0 1, some 0xFF#8)) := ⟨rfl, rfl⟩
/-- V-CL. -/
theorem test_clear : after (.clear ⟨0, 0, 0⟩) cold (fun t => (t.canvas, t.err, t.trace)) =
    some ([(0, ⟨0, 0, 0⟩), (1, ⟨0, 0, 0⟩), (2, ⟨0, 0, 0⟩), (3, ⟨0, 0, 0⟩)], .none, []) := by decide
/-- V-DR. -/
theorem test_draw : after (.draw 1 1 ⟨1, 2, 3⟩) bench (fun t => t.canvas) =
      some [(0, ⟨255, 0, 0⟩), (1, ⟨0, 255, 0⟩), (2, ⟨0, 0, 255⟩), (3, ⟨1, 2, 3⟩)] ∧
    after (.draw 2 0 ⟨1, 2, 3⟩) bench (fun t => (t.err, t.canvas)) = some (.configuration, picture) ∧
    after (.draw 0 (-1) ⟨1, 2, 3⟩) bench (fun t => (t.err, t.canvas)) = some (.configuration, picture) := by decide
/-- X1. -/
theorem test_reserved : after .reserved0xB bench (fun t => (t.err, t.trace)) = some (.configuration, bench.trace) ∧
    after (.reserved0xC0xF 3) bench (fun t => (t.err, t.trace)) = some (.configuration, bench.trace) := by decide
/-- X4: the error is not sticky. -/
theorem test_err_clears : after .encode { bench with err := .transport } (fun t => t.err) = some .none := by decide
/-- DRAW(0, 0, colour 0x010203) at the host's ports (30_encoding.md R84). -/
def drawPort : HostPort := { HostPort.select 0xA with colour := 0x010203#24 }
/-- X5: a DRAW from a callback while PRESENT runs is a race. -/
theorem test_race : look (fun t => (t.race, t.canvas)) (step { bench with busy := true, inputs := [.async drawPort] }) =
    some (true, picture) := by decide

/-! ### The Input Watcher (60_exceptions.md R190 to R196) -/

/-- The bench with button 0, at pin 5, bound. -/
def bound (cb : List HostPort) : State := { bench with watcher := ⟨[(5, cb)], none, []⟩ }
/-- A callback of two operations on an idle bench (R193, 20_memory.md R62): both run, and there is no race. -/
theorem test_callback_of_two : look (fun t => (t.race, t.busy, t.inputs, t.canvas.get 0, t.encOut.length))
    (Sys2Proof.core.run 4 { bound [drawPort, .select 0x7] with inputs := [.edge 0] }) =
    some (false, false, [], some ⟨1, 2, 3⟩, 8) := by decide
/-- A registration without a clear on a bound pin fails, and so reports (R191, 70_reset_and_hazards.md R227); with one, the new
callback replaces the old; a button that is not there does nothing. -/
theorem test_rebind : look State.watcher (step { bound [drawPort] with inputs := [.register 0 []] }) =
      some ⟨[(5, [drawPort])], some .unavailable, [.onFallingEdge 5 [] 300]⟩ ∧
    look State.watcher (step { bound [drawPort] with inputs := [.rebind 0 [.select 0x8]] }) =
      some ⟨[(5, [.select 0x8])], some .bound, [.clearEdgeDetection 5, .onFallingEdge 5 [.select 0x8] 300]⟩ ∧
    look State.watcher (step { bound [drawPort] with inputs := [.rebind 1 []] }) = some (bound [drawPort]).watcher := by decide
/-- The joystick centre's line is pulled down (R194), and a cleared button is unbound (R191). -/
theorem test_lines : look State.watcher (step { bench with inputs := [.configureInput 0 .pullDown] }) =
      some ⟨[], none, [.configureInput 5 .pullDown]⟩ ∧
    look State.watcher (step { bound [drawPort] with inputs := [.unbind 0] }) =
      some ⟨[], none, [.clearEdgeDetection 5]⟩ := by decide

/-! ### The receiver (section 2.5) -/

/-- P3 and P4. -/
theorem test_sleepOut : after (.sleepOut []) (withRegs (resetRegs benchCfg 0))
      (fun t => t.panel.regs) = some none ∧
    after (.sleepOut []) { withRegs (resetRegs benchCfg 0) with now := 10000 }
      (fun t => t.panel.regs.map fun r => (r.mode, r.tOk)) = some (some (.awake, 130000)) := by decide
theorem test_displayOn : after (.displayOn []) (withRegs { awakeRegs with dispOn := none })
      (fun t => t.panel.regs.map fun r => r.dispOn) = some (some (some true)) ∧
    after (.displayOn []) (withRegs { awakeRegs with mode := .sleep }) (fun t => t.panel.regs) = some none := by decide
/-- P5 and P10. -/
theorem test_colAddrSet : after (.colAddrSet [0#8, 0#8, 0#8, 1#8]) bench
      (fun t => t.panel.regs.map fun r => (r.xs, r.xe)) = some (some (some 0#16, some 1#16)) ∧
    after (.colAddrSet [0#8, 1#8, 0#8, 0#8]) bench (fun t => t.panel.regs) = some none := by decide
theorem test_rowAddrSet : after (.rowAddrSet [0#8, 0#8, 0#8, 1#8]) bench
      (fun t => t.panel.regs.map fun r => (r.ys, r.ye)) = some (some (some 0#16, some 1#16)) ∧
    after (.rowAddrSet [0#8, 0#8, 0#8, 2#8]) bench (fun t => t.panel.regs) = some none := by decide
/-- P5 to P8. -/
theorem test_memWrite : after (.memWrite [0x12#8, 0x34#8, 0x56#8]) (withRegs windowRegs)
      (fun t => t.panel.regs.map fun r => (r.gram, r.ptr, r.latch)) =
      some (some ([(0, 0x1234#16)], .pos 1 0, some 0x56#8)) ∧
    after (.memWrite [0#8, 0#8]) bench (fun t => t.panel.regs) = some none := by decide
/-- P11. -/
theorem test_memAccessCtl : after (.memAccessCtl [0x70#8]) (withRegs { awakeRegs with madctl := none })
      (fun t => t.panel.regs.map fun r => r.madctl) = some (some (some 0x70#8)) ∧
    after (.memAccessCtl [0x70#8, 0#8]) bench (fun t => t.panel.regs) = some none := by decide
theorem test_pixelFormat : after (.pixelFormat [0x55#8]) (withRegs { awakeRegs with colmod := none })
      (fun t => t.panel.regs.map fun r => r.colmod) = some (some (some 0x55#8)) ∧
    after (.pixelFormat []) bench (fun t => t.panel.regs.map fun r => (endFrame r).colmod) = some (some none) := by decide
/-- P6 for the second part. -/
theorem test_pixel : after (.pixel 0xF800#16) (withRegs (writing (.pos 1 0) none))
      (fun t => t.panel.regs.map fun r => (r.gram, r.ptr)) = some (some ([(1, 0xF800#16)], .pos 0 1)) ∧
    after (.pixel 0#16) (withRegs (writing .pastEnd none)) (fun t => t.panel.regs) = some none := by decide
theorem test_window : after (.window 0#16 1#16) (withRegs { awakeRegs with cmd := some 0x2A#8 })
      (fun t => t.panel.regs.map fun r => (r.xs, r.xe, r.idx)) = some (some (some 0#16, some 1#16, 4)) := by decide
/-- P9. -/
theorem test_foreign_opcode : look (fun t => t.panel.regs) (step { bench with presented := [.wire [0x21#8]] }) =
    some none := by decide

/-! ### Witnesses: for each statement with hypotheses, something that meets them -/

/-- Nothing runs on an idle bench. -/
theorem bench_seqInv : SeqInv bench := ⟨fun _ => ⟨rfl, rfl⟩, fun h => by cases h⟩

theorem witness_EncodeDecodeRoundTrip : decode (.wire [0x2A#8, 0#8, 1#8]) = .ok (.colAddrSet [0#8, 1#8]) ∧
    isHostop (.colAddrSet [0#8, 1#8]) = false ∧ decode (.pixel [0x12#8, 0x34#8]) = .ok (.pixel 0x1234#16) ∧
    decode (.window [0#8, 1#8, 2#8, 3#8]) = .ok (.window 0x0001#16 0x0203#16) := by decide
/-- The centre of a 3 × 3 raster, which is a fixed point, and a corner, which is none. -/
theorem witness_RotationLaws : (1 < 3 ∧ 2 * 1 + 1 = 3 ∧ rotSrc .cw90 3 3 1 1 = (1, 1)) ∧
    (0 < 3 ∧ ¬2 * 0 + 1 = 3 ∧ rotSrc .cw90 3 3 0 0 = (0, 2)) := by decide
theorem witness_EncodedStreamLayout : 1 < benchCfg.width ∧ 1 < benchCfg.height := by decide
/-- A full chunk, the last one, and a chunk size of 1. -/
theorem witness_ChunkLaw : 1 ≤ benchCfg.chunkBytes ∧ (chunks benchCfg [1, 2, 3, 4, 5])[0]? = some [1, 2, 3, 4] ∧
    0 + 1 < (chunks benchCfg [1, 2, 3, 4, 5]).length ∧ (chunks benchCfg [1, 2, 3, 4, 5]).getLast? = some [5] ∧
    1 ≤ { benchCfg with chunkBytes := 1 }.chunkBytes := by decide
theorem witness_FullFrameWindowBytes : 1 ≤ { benchCfg with width := 65536 }.width ∧
    { benchCfg with width := 65536 }.width ≤ 65536 ∧ 1 ≤ benchCfg.height ∧ benchCfg.height ≤ 65536 := by decide
/-- A frame is presented, a host call comes next, and either waits for an operation. -/
theorem witness_StepRunsTheInstruction : Idle { bench with presented := [.wire [0x11#8]] } ∧
    decode (.wire [0x11#8]) = .ok (.sleepOut []) ∧ (Instr.sleepOut []).wellFormed = true ∧
    Idle { bench with inputs := [.call drawPort] } ∧ bench.presented = [] ∧
    decode (.hostop drawPort) = .ok (.draw 0 0 ⟨1, 2, 3⟩) ∧
    { bench with busy := true, presented := [.wire [0x11#8]] }.race = false ∧
    { bench with busy := true, presented := [.wire [0x11#8]] }.presented ≠ [] := by decide
/-- One transfer, an empty payload, and more than one. -/
theorem witness_sending : Idle bench ∧ bench.busOpen = true ∧ bench.pins.reset ≠ .unconfigured ∧ bench.cfg.InRange ∧
    TransfersComplete bench 6 ∧ xferCount (eventsOf (.writeDataBytes []) bench) = 0 ∧
    TransfersComplete bench (xferCount (eventsOf (.writeDataBytes [1, 2, 3, 4, 5]) bench)) ∧
    TransfersComplete bench (xferCount (eventsOf (.setAddressWindow 1 1 1 1) bench)) ∧
    TransfersComplete bench (xferCount (eventsOf .present bench)) ∧
    TransfersComplete bench (6 + 2 * xferCount (eventsOf .present bench)) := by
  unfold TransfersComplete
  decide
/-- Both ends of each coordinate's range. -/
theorem witness_SetAddressWindowSends : ((0 : Int) ≤ 0 ∧ (0 : Int) ≤ 1 ∧ (1 : Int) < benchCfg.width ∧
    (1 : Int) < benchCfg.height) ∧ windowInBounds benchCfg ⟨0, 0, 1, 1⟩ = true ∧ windowInBounds benchCfg ⟨1, 1, 1, 1⟩ = true ∧
    windowInBounds benchCfg ⟨0, 0, 0, 0⟩ = true := by decide
/-- Each of the six ways to fail at its boundary. -/
theorem witness_WindowBoundsCheck : Idle bench ∧ ((-1 : Int) < 0) ∧ ((0 : Int) < 1) ∧ ((2 : Int) ≥ bench.cfg.width) ∧
    ((2 : Int) ≥ bench.cfg.height) := by decide
theorem witness_WindowBoundsCheck_seq : SeqInv bench ∧
    ∃ t, exec (.setAddressWindow 0 0 1 1) bench = .next t ∧ t.busy = false := ⟨bench_seqInv, _, rfl, by decide⟩
/-- The last position, and one past it in each direction. -/
theorem witness_DrawWritesOnePosition : (0 : Int) ≤ 1 ∧ (1 : Int) < bench.cfg.width ∧ (1 : Int) < bench.cfg.height ∧
    ¬((2 : Int) < bench.cfg.width) ∧ ¬((0 : Int) ≤ -1) ∧ ¬((2 : Int) < bench.cfg.height) := by decide
theorem witness_PresentWireImage : bench.cfg.InRange ∧ 4 ≤ bench.cfg.chunkBytes := by decide
/-- Every call answers yes, and the k-th answers no for k = 0, 1, 2. -/
theorem witness_Setup : Idle cold ∧ cold.busOpen = false ∧ cold.cfg.width = cold.cfg.height ∧ 1 ≤ cold.cfg.width ∧
    (∀ k, k < 3 → callAnswer cold.world k = true) ∧
    callAnswer { goodWorld with calls := ⟨[false], 0⟩ } 0 = false ∧
    callAnswer { goodWorld with calls := ⟨[true, false], 0⟩ } 1 = false ∧
    callAnswer { goodWorld with calls := ⟨[true, true, false], 0⟩ } 2 = false ∧
    (∀ j, j < 2 → callAnswer { goodWorld with calls := ⟨[true, true, false], 0⟩ } j = true) := by decide
theorem witness_ReservedSelects : 0xB ≤ (HostPort.select 0xB).opSel.toNat ∧ 0xB ≤ (HostPort.select 0xF).opSel.toNat := by
  decide
/-- An operation the error is raised by, and one it is not. -/
theorem witness_ConfigurationErrorCases : isHostop (.setAddressWindow 1 0 0 0) = true ∧ isHostop .present = true ∧
    ({ benchCfg with height := 3 }.width ≠ { benchCfg with height := 3 }.height) ∧
    after .present bench (fun t => t.busy) = some false := by decide
theorem witness_RefusedWithoutSetup : Idle cold ∧ cold.busOpen = false ∧ windowInBounds cold.cfg ⟨0, 0, 1, 1⟩ = true ∧
    cold.pins.reset = .unconfigured ∧ Idle bench ∧ bench.busOpen = true ∧ bench.cfg.width = bench.cfg.height := by decide
theorem witness_RaceIsSticky : isHostop .encode = true ∧ { bench with busy := true }.race = false ∧
    { bench with busy := true }.busy = true ∧ { bench with race := true }.race = true := by decide
/-- A bound button whose callback draws and encodes, on an idle and on a busy bench; an unbound button; no button. -/
theorem witness_CallbackMayRace : (bound [drawPort, .select 0x7]).race = false ∧
    (bound [drawPort, .select 0x7]).presented = [] ∧ (bound [drawPort, .select 0x7]).cfg.buttonPins[0]? = some 5 ∧
    (bound [drawPort, .select 0x7]).watcher.bindings.get 5 = some [drawPort, .select 0x7] ∧
    decode (.hostop drawPort) = .ok (.draw 0 0 ⟨1, 2, 3⟩) ∧ (bound [drawPort]).busy = false ∧
    { bound [drawPort] with busy := true }.busy = true ∧ bench.watcher.bindings.get 5 = none ∧
    bench.cfg.buttonPins[1]? = none := by decide
/-- The first try succeeds; the second does; neither does; a bare registration on a bound and on a free pin. -/
theorem witness_RebindReplaces : bench.race = false ∧ bench.presented = [] ∧ bench.cfg.buttonPins[0]? = some 5 ∧
    ((bound [drawPort]).watcher.bindings.get 5).isSome = true ∧ bench.watcher.bindings.get 5 = none ∧
    registrationAnswer goodWorld 0 = true ∧
    registrationAnswer { goodWorld with registrations := ⟨[false, true], 0⟩ } 0 = false ∧
    registrationAnswer { goodWorld with registrations := ⟨[false, true], 0⟩ } 1 = true ∧
    registrationAnswer { goodWorld with registrations := ⟨[false, false], 0⟩ } 0 = false ∧
    registrationAnswer { goodWorld with registrations := ⟨[false, false], 0⟩ } 1 = false := by decide
/-- Nothing delivered, and the byte delivered. -/
theorem witness_CommandByteFails : transferAnswer (answering [.fail 0]).world 0 = .fail 0 ∧
    transferAnswer (answering [.fail 1]).world 0 = .fail 1 ∧ Idle (answering [.fail 0]) := by decide
/-- The first and the last of the six transfers fail. -/
theorem witness_FailedInitShadow : TransfersComplete (answering [.fail 0]) 0 ∧
    transferAnswer (answering [.fail 0]).world 0 = .fail 0 ∧
    TransfersComplete (answering [.complete, .complete, .complete, .complete, .complete, .fail 1]) 5 ∧
    transferAnswer (answering [.complete, .complete, .complete, .complete, .complete, .fail 1]).world 5 = .fail 1 := by
  unfold TransfersComplete
  decide
/-- The first transfer, the last of the window's and the last of all fail; the window of a SET_ADDRESS_WINDOW. -/
theorem witness_FailedWindowShadow : xferCount (windowEvents benchCfg (fullWindow benchCfg)) = 4 ∧
    xferCount (eventsOf .present bench) = 7 ∧ windowInBounds benchCfg ⟨0, 0, 1, 1⟩ = true ∧
    TransfersComplete (answering [.fail 0]) 0 ∧ transferAnswer (answering [.fail 0]).world 0 = .fail 0 ∧
    TransfersComplete (answering [.complete, .complete, .complete, .fail 1]) 3 ∧
    transferAnswer (answering [.complete, .complete, .complete, .fail 1]).world 3 = .fail 1 ∧
    TransfersComplete (answering (List.replicate 6 .complete ++ [.fail 3])) 6 ∧
    transferAnswer (answering (List.replicate 6 .complete ++ [.fail 3])).world 6 = .fail 3 := by
  unfold TransfersComplete
  decide
/-- A BEGIN_RAM_WRITE and a WRITE_DATA_BYTES whose transfer fails. -/
theorem witness_failing_bytes : after .beginRamWrite (answering [.fail 0]) (fun t => (t.busy, t.err)) =
      some (false, .transport) ∧
    after (.writeDataBytes [1]) (answering [.fail 1]) (fun t => (t.busy, t.err)) = some (false, .transport) := by decide
/-- A window transfer fails, and a pixel transfer fails. -/
theorem witness_failing : after .present (answering [.fail 0]) (fun t => (t.busy, t.err)) = some (false, .transport) ∧
    after .present (answering [.complete, .complete, .complete, .complete, .complete, .fail 2])
      (fun t => (t.busy, t.err)) = some (false, .transport) ∧
    after (.setAddressWindow 0 0 1 1) (answering [.complete, .fail 4]) (fun t => (t.busy, t.err)) =
      some (false, .transport) := by decide
/-- A transfer that never returns, met while an operation runs and a call waits. -/
def stalled : State :=
  { answering [.never] with
    busy := true, op := some ⟨.beginRamWrite, ramWriteItems⟩, seq := 1, inputs := [.call (.select 0x7)] }
theorem witness_StalledBlockStays : stalled.race = false ∧ stalled.busy = true ∧
    (ramWriteItems[stalled.seq]?).map Item.event = some (.xfer [0x2C#8]) ∧ transferAnswer stalled.world 0 = .never ∧
    stalled.inputs = [.call (.select 0x7)] := by decide
/-- An event to come, and a list that is done. -/
theorem witness_TickEmitsOneEvent : ramWriteItems[0]?.map Item.event = some (.pin .dc .low) ∧
    { stalled with seq := 2 }.seq = ramWriteItems.length ∧ bench.busy = false := by decide
theorem witness_CallIsStartThenTicks : Idle bench ∧ isHostop .present = true ∧ after .present bench (fun t => t.busy) = some false ∧
    Idle cold ∧ look (fun _ => ()) (exec .present cold) = none := by decide
/-- A bring-up from cold, each operation with no error, and an operation on a ready bench. -/
theorem witness_ReadyAfterBringUp : (after .setup cold fun t1 => (t1.err, after .hardReset t1 fun t2 => (t2.err,
    after .initSequence t2 fun t3 => (t3.err, ready t3)))) = some (.none, some (.none, some (.none, true))) ∧
    ready bench = true ∧ after (.writeCommandByte 0x2C#8) bench ready = some true := by decide
/-- A step of a bench with a PRESENT to come. -/
def calling : State := { bench with inputs := [.call (.select 0x8)] }
theorem witness_step : ∃ t, step calling = .next t := ⟨_, rfl⟩
/-- With nothing presented, a step that emits nothing and one that sends a byte. -/
theorem witness_TraceGrowsAndFeedsPanel : bench.presented = [] ∧ look State.trace (step bench) = some (bench.trace ++ []) ∧
    look (fun t => (t.pins, t.panel)) (step { bench with inputs := [.call (.select 0x4)] }) =
      some (hear benchCfg [(0, .pin .dc .low), (0, .xfer [0x2C#8])] (bench.pins, bench.panel)) := by decide
theorem witness_SequencerPositionKept : SeqInv calling := ⟨fun _ => ⟨rfl, rfl⟩, fun h => by cases h⟩
theorem witness_MemoriesKept : MemInv calling := by
  refine ⟨by decide, by decide, by decide, fun r hr => ?_⟩
  cases hr
  exact ⟨by decide, by decide, by simp [awakeRegs], by simp [awakeRegs], by simp [awakeRegs], by simp [awakeRegs]⟩
theorem witness_PinsKept : PinInv calling ∧ calling.busOpen = true := by
  refine ⟨⟨fun lvl h => ?_, fun p h => ?_, fun _ => ⟨rfl, by decide⟩, fun o h => by cases h⟩, rfl⟩
  · cases h; rfl
  · cases h
/-- A backlight that is on while the bus is closed. -/
theorem witness_BacklightStaysOn : PinInv { halfSetUp with inputs := [.call (.select 0x0)] } ∧
    { halfSetUp with inputs := [.call (.select 0x0)] }.pins.backlight = .driven .high ∧
    (∃ t, step { halfSetUp with inputs := [.call (.select 0x0)] } = .next t) := by
  refine ⟨⟨fun lvl h => ?_, fun p h => ?_, fun h => ?_, fun o h => ?_⟩, rfl, _, rfl⟩ <;> cases h
theorem witness_NoResourceError : ErrInv calling := by
  unfold ErrInv
  decide
theorem witness_exec : look (fun _ => ()) (exec .beginRamWrite bench) = some () ∧
    look (fun _ => ()) (exec .beginRamWrite cold) = none := by decide
/-- A HARD_RESET about to raise the line that fell at time 0. -/
def lowered : State :=
  { bench with
    panel := ⟨some 0, none⟩, busy := true, op := some ⟨.hardReset, (askHardReset bench).items⟩, seq := 4 }
/-- An UNDEFINED receiver that a whole pulse brings back, or the rising edge of one, one settle time after its fall and not
before. -/
theorem witness_UndefinedUntilResetPulse : { bench with panel := Panel.undefined }.panel.regs = none ∧
    look (fun t => t.panel.regs.isSome) (step { bench with panel := Panel.undefined, inputs := [.call (.select 0x1)] }) =
      some true ∧
    look (fun t => t.panel.regs.isSome) (step { lowered with now := 10000 }) = some true ∧
    look (fun t => t.panel.regs.isSome) (step { lowered with now := 9999 }) = some false := by decide
theorem witness_BytesReachThePanel : bench.race = false ∧ decode (.wire (0x11#8 :: [])) = .ok (.sleepOut []) ∧
    Panel.undefined.regs = none ∧ isHostop (.pixel 0#16) = false := by decide
/-- Frames that end early, at the last index that does, and frames that do not. -/
theorem witness_SleepOutWakes : bench.race = false ∧ bench.panel.regs = some awakeRegs ∧ awakeRegs.tOk ≤ arrival bench ∧
    { awakeRegs with cmd := some 0x36#8 }.idx = 0 ∧ { awakeRegs with cmd := some 0x2A#8, idx := 3 }.idx < 4 ∧
    ¬({ awakeRegs with cmd := some 0x2B#8, idx := 4 }.idx < 4) ∧ awakeRegs.cmd ≠ some 0x36#8 ∧
    { awakeRegs with cmd := some 0x3A#8, idx := 1 }.idx ≠ 0 := by decide
theorem witness_RegisterCommandsWrite : bench.race = false ∧ bench.panel.regs = some awakeRegs ∧ awakeRegs.mode = .awake ∧
    awakeRegs.tOk ≤ arrival bench := by decide
/-- The last column, one past it, a start above the end; three, four and five data bytes. -/
theorem witness_AddressSetStores : ((1#16).toNat ≤ (1#16).toNat ∧ (1#16).toNat < bench.cfg.width) ∧
    ¬((0#16).toNat ≤ (2#16).toNat ∧ (2#16).toNat < bench.cfg.width) ∧ ¬((1#16).toNat ≤ (0#16).toNat) ∧
    ([0, 0, 0] : List Byte).length < 4 ∧ 4 < ([0, 0, 0, 0, 0] : List Byte).length := by decide
theorem witness_MemWriteStartsAtWindow : (withRegs windowRegs).panel.regs = some windowRegs ∧ windowRegs.mode = .awake ∧
    windowRegs.tOk ≤ arrival (withRegs windowRegs) ∧ (endFrame windowRegs).colmod = some benchCfg.colmodByte ∧
    (endFrame windowRegs).xs = some 0 ∧ (endFrame windowRegs).xe = some 1 ∧ (endFrame windowRegs).ys = some 0 ∧
    (endFrame windowRegs).ye = some 1 ∧ (endFrame awakeRegs).xs.isSome = false := by decide
/-- The three places of the pointer, with and without a latched byte, and another pixel format. -/
theorem witness_PixelLandsAndAdvances : (writing (.pos 0 0) none).cmd = some 0x2C#8 ∧
    (writing (.pos 0 0) none).colmod = some benchCfg.colmodByte ∧ (writing (.pos 0 0) none).xs = some 0 ∧
    (writing (.pos 0 0) none).xe = some 1 ∧ (writing (.pos 0 0) none).ye = some 1 ∧
    (writing (.pos 1 1) (some 0xAB#8)).latch = some 0xAB#8 ∧ (writing .pastEnd none).ptr = .pastEnd ∧
    { writing (.pos 0 0) none with colmod := some 0x66#8 }.colmod ≠ some benchCfg.colmodByte := by decide
theorem witness_WindowBytesLand : { awakeRegs with cmd := some 0x2A#8 }.cmd = some 0x2A#8 ∧
    { awakeRegs with cmd := some 0x2B#8 }.cmd = some 0x2B#8 ∧ awakeRegs.idx = 0 ∧ awakeRegs.args = [] := by decide
/-- A pulse one microsecond too short and one just long enough, and the other cases. -/
theorem witness_ReceiverUndefinedCases : (10999 < 1000 + 1000 * benchCfg.resetSettleMs) ∧
    (1000 + 1000 * benchCfg.resetSettleMs ≤ 11000) ∧ (9999 < (resetRegs benchCfg 0).tOk) ∧ (resetRegs benchCfg 0).mode = .sleep ∧
    (0x36#8 ≠ 0x11#8) ∧ (resetRegs benchCfg 0).cmd = none ∧ Idle { bench with presented := [.wire [0x21#8]] } ∧
    { bench with presented := [.wire [0x21#8]] }.presented = [.wire (0x21#8 :: [])] := by decide
theorem witness_PresentFillsPanel : bench.panel.regs = some awakeRegs ∧ awakeRegs.tOk ≤ bench.now ∧
    awakeRegs.colmod = some bench.cfg.colmodByte ∧ FrameDone awakeRegs := by
  unfold FrameDone
  decide
/-- A bring-up and a PRESENT, each with no error; a window in between, and one more PRESENT. -/
theorem witness_EndToEnd_run : (after .hardReset bench fun t1 => (t1.busy, t1.err, after .initSequence t1 fun t2 => (t2.busy, t2.err,
    after .present t2 fun t3 => (t3.busy, t3.err, after (.setAddressWindow 0 0 1 1) t3 fun t => (t.busy,
    after .present t fun t4 => (t4.busy, t4.err)))))) =
    some (false, .none, some (false, .none, some (false, .none, some (false, some (false, .none))))) := rfl
theorem witness_EndToEnd : CanvasWritten bench ∧ TransfersComplete bench (6 + xferCount (eventsOf .present bench)) ∧
    isPictureOp (.setAddressWindow 0 0 1 1) = true ∧ after .present (answering [.fail 0]) (fun t => t.busy) = some false := by
  unfold CanvasWritten TransfersComplete
  decide

end Sys2Proof.Tests.Slice0
end

section
/-! PROOFS, 10_state.md. What the parts of a step do to single fields of the state, as rules for every later proof. -/

namespace Sys2Proof.Machine

/-! ### An entry that happens, field by field -/

@[simp] theorem happen_cfg (it : Item) (s : State) : (happen it s).cfg = s.cfg := by
  obtain ⟨h, -⟩ := happen_fields it s; exact h
@[simp] theorem happen_busy (it : Item) (s : State) : (happen it s).busy = s.busy := by
  obtain ⟨-, h, -⟩ := happen_fields it s; exact h
@[simp] theorem happen_op (it : Item) (s : State) : (happen it s).op = s.op := by
  obtain ⟨-, -, h, -⟩ := happen_fields it s; exact h
@[simp] theorem happen_seq (it : Item) (s : State) : (happen it s).seq = s.seq + 1 := by
  obtain ⟨-, -, -, h, -⟩ := happen_fields it s; exact h
@[simp] theorem happen_err (it : Item) (s : State) : (happen it s).err = s.err := by
  obtain ⟨-, -, -, -, h, -⟩ := happen_fields it s; exact h
@[simp] theorem happen_busOpen (it : Item) (s : State) :
    (happen it s).busOpen = (s.busOpen || decide (Edit.busOpen ∈ it.onOk)) := by
  obtain ⟨-, -, -, -, -, -, h, -⟩ := happen_fields it s; exact h
@[simp] theorem happen_pins (it : Item) (s : State) : (happen it s).pins = pinsAfter it.event s.pins := by
  obtain ⟨-, -, -, -, -, -, -, h, -⟩ := happen_fields it s; exact h
@[simp] theorem happen_canvas (it : Item) (s : State) : (happen it s).canvas = s.canvas := by
  obtain ⟨-, -, -, -, -, -, -, -, h, -⟩ := happen_fields it s; exact h
@[simp] theorem happen_trace (it : Item) (s : State) : (happen it s).trace = s.trace ++ [it.event] := by
  obtain ⟨-, -, -, -, -, -, -, -, -, -, h, -⟩ := happen_fields it s; exact h

/-! ### An SPI call that fails -/

/-- The state in which an entry's SPI call has failed and nothing is recorded yet: its answer is taken, and the first
bytes of a transfer may have been sent. -/
def CutOff (it : Item) (s u : State) : Prop :=
  u = takeTransferAnswer s ∨ u = takeCallAnswer s ∨
  ∃ bs k, it.event = .xfer bs ∧ u = emit (.xfer (bs.take k)) (takeTransferAnswer s)

theorem CutOff.cfg {it : Item} {s u : State} (h : CutOff it s u) : u.cfg = s.cfg := by
  rcases h with rfl | rfl | ⟨_, _, _, rfl⟩ <;> rfl
theorem CutOff.busOpen {it : Item} {s u : State} (h : CutOff it s u) : u.busOpen = s.busOpen := by
  rcases h with rfl | rfl | ⟨_, _, _, rfl⟩ <;> rfl
theorem CutOff.pins {it : Item} {s u : State} (h : CutOff it s u) : u.pins = s.pins := by
  rcases h with rfl | rfl | ⟨_, _, _, rfl⟩ <;> rfl
theorem CutOff.canvas {it : Item} {s u : State} (h : CutOff it s u) : u.canvas = s.canvas := by
  rcases h with rfl | rfl | ⟨_, _, _, rfl⟩ <;> rfl

/-- A failed transfer records its failure and ends the operation, after its first bytes were sent or with none sent. -/
theorem failTransfer_cutOff {it : Item} {bs : List Byte} (he : it.event = .xfer bs) (k : Nat) (s : State) :
    ∃ u, CutOff it s u ∧
      failTransfer it (bs.take k) (takeTransferAnswer s) = endOp .transport (applyEdits it.onFail u) := by
  unfold failTransfer
  split
  · exact ⟨_, .inl rfl, rfl⟩
  · exact ⟨_, .inr (.inr ⟨bs, k, he, rfl⟩), rfl⟩

/-- A step of the sequencer keeps what the entry that is due keeps when it happens and when it fails, and what
completion keeps. -/
theorem tick_keeps {P : State → Prop} {s : State} (h0 : P s)
    (hdone : ∀ o it, s.op = some o → o.items[s.seq]? = some it → s.busy = true → P (happen it s))
    (hfail : ∀ o it u, s.op = some o → o.items[s.seq]? = some it → CutOff it s u →
      P (endOp .transport (applyEdits it.onFail u)))
    (hend : P (endOp .none s)) : P (tick s) := by
  rcases tick_cases s with h | ⟨o, -, -, -, h⟩ | ⟨o, it, hb, ho, hi, ⟨h, -⟩ | ⟨bs, k, he, -, h⟩ | ⟨-, -, h⟩⟩ <;> rw [h]
  · exact h0
  · exact hend
  · exact hdone o it ho hi hb
  · obtain ⟨u, hu, h'⟩ := failTransfer_cutOff he k s
    rw [h']
    exact hfail o it u ho hi hu
  · exact hfail o it _ ho hi (.inr (.inl rfl))

@[simp] theorem failTransfer_shadow (it : Item) (sent : List Byte) (s : State) :
    (failTransfer it sent s).shadow = it.onFail.foldl editShadow s.shadow := by
  unfold failTransfer
  split <;> rfl

/-- A list whose transfers complete up to entry number `n`, itself a transfer that fails, ends with that failure. -/
theorem runItems_fails_at {items : List Item} {n k : Nat} {it : Item} {bs : List Byte} {s : State}
    (hn : items[n]? = some it) (he : it.event = .xfer bs)
    (ht : ∀ m, m < listTransfers (items.take n) → transferAnswer s.world m = .complete)
    (hc : listCalls (items.take n) = 0) (hf : transferAnswer s.world (listTransfers (items.take n)) = .fail k) :
    runItems items s = failTransfer it (bs.take k) (takeTransferAnswer (play (items.take n) s)) := by
  have hsplit : items = items.take n ++ it :: items.drop (n + 1) := by
    obtain ⟨hlt, rfl⟩ := List.getElem?_eq_some_iff.mp hn
    simp
  have hf' : transferAnswer (play (items.take n) s).world 0 = .fail k := by
    rw [play_transferAnswer, Nat.zero_add, hf]
  calc runItems items s
      = runItems (it :: items.drop (n + 1)) (play (items.take n) s) := by
        conv_lhs => rw [hsplit]
        exact runItems_append _ _ s ht (by simp [hc])
    _ = _ := by simp only [runItems, doItem, he, hf']

/-! ### Issuing -/

/-- However far the sequencer is taken, issuing answers the same next state, refuses alike, or latches the operation. -/
theorem issue_alike (a : Ask) (go go' : State → State) (s : State) :
    (∃ t, issue a go s = .next t ∧ issue a go' s = .next t) ∨
    (∃ r, issue a go s = .refused r ∧ issue a go' s = .refused r) ∨
    (issue a go s = .next (go (latch a s)) ∧ issue a go' s = .next (go' (latch a s))) := by
  unfold issue
  cases s.race <;> cases s.busy <;> cases a.illegal <;> cases a.stop <;> simp

/-- Bytes that reach the panel by themselves change the panel and the clock and nothing else. -/
theorem arriveFrame_next {c : Byte} {data : List Byte} {s t : State} (h : arriveFrame c data s = .next t) :
    ∃ p, t = Safety.withPanel s p := by
  unfold arriveFrame at h
  split at h <;> cases h
  exact ⟨_, rfl⟩

theorem arriveData_next {data : List Byte} {s t : State} (h : arriveData data s = .next t) :
    ∃ p, t = Safety.withPanel s p := by
  unfold arriveData at h
  split at h <;> cases h
  exact ⟨_, rfl⟩

/-- What a property must survive for every instruction to keep it, with the bytes that reach the panel by themselves
taken together. -/
theorem KeptOps.kept {P : State → Prop} (k : KeptOps P) (hp : ∀ s p, P s → P (Safety.withPanel s p)) : Kept P where
  toKeptOps := k
  frame _ _ s _ h h0 := by
    obtain ⟨p, rfl⟩ := arriveFrame_next h
    exact hp s p h0
  data _ s _ h h0 := by
    obtain ⟨p, rfl⟩ := arriveData_next h
    exact hp s p h0

/-- The instructions that ask for an operation are the host's. -/
theorem askOf_isSome (i : Instr) (s : State) : (askOf i s).isSome = Safety.isHostop i := by
  cases i <;> rfl

/-- A host operation is performed as a blocking call and launched when it is only started. -/
theorem hostop_performs {i : Instr} (hi : Safety.isHostop i = true) (s : State) :
    ∃ a, askOf i s = some a ∧ exec i s = perform a s ∧ begin i s = launch a s := by
  rw [← askOf_isSome i s] at hi
  rcases exec_cases i s with h | ⟨c, data, h⟩ | ⟨data, h⟩
  · exact h
  · simp [(h s).1] at hi
  · simp [(h s).1] at hi

/-- The precondition on the bus. -/
theorem needsBus_eq_none {s : State} : needsBus s = none ↔ s.busOpen = true := by
  unfold needsBus
  split <;> simp_all

end Sys2Proof.Machine
end

section
/-! PROOFS, 10_state.md. The sequencer position (R21), the configuration (R25) and the canvas (R24) over every step. -/

namespace Sys2Proof.Machine

open Sys2Proof.Safety

/-! ### The sequencer position -/

/-- Whatever ends an operation leaves the block idle with nothing named. -/
theorem seqInv_endOp (e : ErrClass) (s : State) : SeqInv (endOp e s) :=
  ⟨fun _ => ⟨rfl, rfl⟩, fun h => by cases h⟩

theorem seqInv_latch (a : Ask) (s : State) : SeqInv (latch a s) :=
  ⟨fun h => by simp at h, fun _ => ⟨_, rfl, Nat.zero_le _⟩⟩

/-- An entry that is due is counted within the list. -/
theorem seqInv_happen {o : Running} {it it' : Item} {s : State} (hb : s.busy = true) (ho : s.op = some o)
    (hi : o.items[s.seq]? = some it) : SeqInv (happen it' s) := by
  obtain ⟨hlt, -⟩ := List.getElem?_eq_some_iff.mp hi
  exact ⟨fun h => by simp [hb] at h, fun _ => ⟨o, by simp [ho], by simpa using hlt⟩⟩

theorem seqInv_keptOps : KeptOps SeqInv where
  race _ h := h
  configuration _ _ _ := seqInv_endOp _ _
  latch _ a s _ _ _ _ _ := seqInv_latch a s
  tick _ h := tick_keeps h (fun _ _ ho hi hb => seqInv_happen hb ho hi) (fun _ _ _ _ _ _ => seqInv_endOp _ _)
    (seqInv_endOp _ _)

/-- Settles O44: every part of a step keeps the position, so every step does. -/
theorem sequencerPositionKept : Obligations.SequencerPositionKept :=
  fun _ _ hs h => (seqInv_keptOps.kept fun _ _ h => h).step (fun _ _ h => h) (fun _ _ h => h) (fun _ _ _ h => h)
    (fun _ _ _ h => h) (fun _ _ h => h) h hs

/-! ### The configuration -/

theorem cfg_keptOps (c : Config) : KeptOps (fun s => s.cfg = c) where
  race _ h := h
  configuration _ _ h := h
  latch _ _ _ _ _ _ _ h := h
  tick _ h := tick_keeps (P := fun s => s.cfg = c) h (fun _ _ _ _ _ => by simpa using h)
    (fun _ _ _ _ _ hu => hu.cfg.trans h) h

/-- Settles O42: every part of a step keeps the configuration. -/
theorem configurationFixed : Obligations.ConfigurationFixed :=
  fun s _ h => ((cfg_keptOps s.cfg).kept fun _ _ h => h).step (fun _ _ h => h) (fun _ _ h => h) (fun _ _ _ h => h)
    (fun _ _ _ h => h) (fun _ _ h => h) h rfl

/-! ### The canvas -/

theorem tick_canvas (s : State) : (tick s).canvas = s.canvas :=
  tick_keeps (P := fun t => t.canvas = s.canvas) rfl (fun _ _ _ _ _ => by simp) (fun _ _ _ _ _ hu => hu.canvas) rfl

theorem ticks_canvas (n : Nat) (s : State) : (tick^[n] s).canvas = s.canvas := by
  induction n with
  | zero => rfl
  | succ n ih => rw [Function.iterate_succ_apply', tick_canvas, ih]

/-- Running a latched operation writes no canvas: it is stepping the sequencer. -/
theorem runItems_latch_canvas (a : Ask) (s : State) : (runItems a.items (latch a s)).canvas = a.canvas := by
  obtain ⟨n, hn⟩ := runItems_eq_ticks a.items (latch a s) a.instr a.items rfl rfl rfl
  rw [← hn, ticks_canvas, latch_canvas]

/-- Only CLEAR and DRAW ask for another canvas. -/
theorem askOf_canvas {i : Instr} {a : Ask} {s : State} (hc : ∀ c, i ≠ .clear c) (hd : ∀ x y c, i ≠ .draw x y c)
    (h : askOf i s = some a) : a.canvas = s.canvas := by
  cases i
  case clear c => exact absurd rfl (hc c)
  case draw x y c => exact absurd rfl (hd x y c)
  all_goals cases h <;> rfl

theorem perform_canvas {a : Ask} {s t : State} (ha : a.canvas = s.canvas) (h : perform a s = .next t) :
    t.canvas = s.canvas := by
  rcases issue_cases a (runItems a.items) s with ⟨-, h'⟩ | ⟨-, -, h'⟩ | ⟨-, -, -, h'⟩ | ⟨-, -, -, r, -, h'⟩ |
    ⟨-, -, -, -, h'⟩ <;> rw [perform, h'] at h <;> cases h
  · rfl
  · rfl
  · rw [runItems_latch_canvas, ha]

/-- Settles O43: no other operation asks for another canvas, running one writes none, and bytes at the panel do not
reach the block. -/
theorem onlyClearAndDrawWriteCanvas : Obligations.OnlyClearAndDrawWriteCanvas := by
  refine ⟨fun s t i hc hd h => ?_, tick_canvas⟩
  rcases exec_cases i s with ⟨a, ha, he, -⟩ | ⟨c, data, he⟩ | ⟨data, he⟩
  · rw [he] at h
    exact perform_canvas (askOf_canvas hc hd ha) h
  · obtain ⟨p, rfl⟩ := arriveFrame_next ((he s).2.1 ▸ h)
    rfl
  · obtain ⟨p, rfl⟩ := arriveData_next ((he s).2.1 ▸ h)
    rfl

end Sys2Proof.Machine
end

section
/-! PROOFS, 10_state.md R36, R32. The pins: what an event does to the agreement of DC with the trace, which event lists
are sound, and the pin invariant over every step. -/

namespace Sys2Proof.Machine

open Sys2Proof.Safety

/-! ### The trace and DC -/

theorem lastDc_append (t : List Event) (e : Event) : lastDc (t ++ [e]) = dcStep (lastDc t) e := by
  simp [lastDc]

theorem framedFrom_append (d : Option Level) (a b : List Event) :
    framedFrom d (a ++ b) = framedFrom d a ++ framedFrom (a.foldl dcStep d) b := by
  induction a generalizing d with
  | nil => rfl
  | cons e es ih =>
    cases e with
    | pin sig lvl => cases sig <;> simp [framedFrom, dcStep, ih]
    | xfer _ | wait _ | pinOut _ | spiOpen _ _ | spiClk _ | spiMode _ => simp [framedFrom, dcStep, ih]

/-- One more event adds to the framed stream the bytes of a transfer, under the last DC level. -/
theorem mem_framed_append {t : List Event} {e : Event} {p : Option Level × Byte} (h : p ∈ framed (t ++ [e])) :
    p ∈ framed t ∨ (∃ bs, e = .xfer bs) ∧ p.1 = lastDc t := by
  rw [framed, framedFrom_append, List.mem_append] at h
  refine h.imp_right fun h => ?_
  cases e with
  | xfer bs =>
    obtain ⟨b, -, rfl⟩ : ∃ b ∈ bs, (lastDc t, b) = p := by simpa [framedFrom, lastDc] using h
    exact ⟨⟨bs, rfl⟩, rfl⟩
  | pin sig lvl => cases sig <;> simp [framedFrom] at h
  | wait _ | pinOut _ | spiOpen _ _ | spiClk _ | spiMode _ => simp [framedFrom] at h

/-- DC's level is the last one in the trace, and no byte was sent under an undefined DC (R32, R36 c). -/
def DcAgrees (p : Pins) (t : List Event) : Prop :=
  (∀ lvl, p.dc = .driven lvl → lastDc t = some lvl) ∧ ∀ b, b ∈ framed t → b.1.isSome

/-- An event that sends bytes only under a driven DC keeps DC and the trace in agreement. -/
theorem DcAgrees.event {p : Pins} {t : List Event} {e : Event} (h : DcAgrees p t)
    (he : ∀ bs, e = .xfer bs → ∃ lvl, p.dc = .driven lvl) : DcAgrees (pinsAfter e p) (t ++ [e]) := by
  obtain ⟨hdc, hfr⟩ := h
  refine ⟨fun lvl hl => ?_, fun b hb => ?_⟩
  · rw [lastDc_append]
    cases e with
    | pin sig l =>
      cases sig with
      | dc =>
        cases hl
        rfl
      | reset | backlight => exact hdc lvl hl
    | pinOut sig =>
      cases sig with
      | dc => cases hl
      | reset | backlight => exact hdc lvl hl
    | xfer _ | wait _ | spiOpen _ _ | spiClk _ | spiMode _ => exact hdc lvl hl
  · rcases mem_framed_append hb with hb | ⟨⟨bs, rfl⟩, hlast⟩
    · exact hfr b hb
    · obtain ⟨lvl, hl⟩ := he bs rfl
      simp [hlast, hdc lvl hl]

/-! ### Sound event lists -/

/-- The backlight is on and RESET is an output (R36 d). -/
def Lit (p : Pins) : Prop := p.backlight = .driven .high ∧ p.reset ≠ .unconfigured

/-- What the first entry of a sound list may be, and that the rest is sound after it. -/
theorem itemsSound_cons {b : Bool} {p : Pins} {it : Item} {rest : List Item} :
    itemsSound b p (it :: rest) = true ↔
      (∀ bs, it.event = .xfer bs → ∃ lvl, p.dc = .driven lvl) ∧ Edit.busOpen ∉ it.onFail ∧
      it.event ≠ .pin .backlight .low ∧ ((b || decide (Edit.busOpen ∈ it.onOk)) = true → Lit (pinsAfter it.event p)) ∧
      itemsSound (b || decide (Edit.busOpen ∈ it.onOk)) (pinsAfter it.event p) rest = true := by
  have hdriven : (p.dc = .driven .low ∨ p.dc = .driven .high) ↔ ∃ lvl, p.dc = .driven lvl :=
    ⟨fun h => h.elim (fun h => ⟨_, h⟩) (fun h => ⟨_, h⟩), fun ⟨l, h⟩ => by cases l <;> simp [h]⟩
  obtain ⟨e, ok, bad⟩ := it
  cases e with
  | xfer bs =>
    have hx : (∀ bs', Event.xfer bs = .xfer bs' → ∃ lvl, p.dc = .driven lvl) ↔ ∃ lvl, p.dc = .driven lvl :=
      ⟨fun h => h bs rfl, fun h _ _ => h⟩
    simp only [hx]
    simp [itemsSound, hdriven, Lit, imp_iff_not_or, and_assoc]
  | pin _ _ | wait _ | pinOut _ | spiOpen _ _ | spiClk _ | spiMode _ =>
    simp [itemsSound, Lit, imp_iff_not_or, and_assoc]

/-- On a lit and open bus a DC level may come first: it leaves the backlight and RESET alone. -/
theorem itemsSound_pin_dc {lvl : Level} {p : Pins} {rest : List Item} (hp : Lit p)
    (h : itemsSound true { p with dc := .driven lvl } rest = true) :
    itemsSound true p (pinItem .dc lvl :: rest) = true :=
  itemsSound_cons.mpr ⟨nofun, by simp [pinItem], by simp [pinItem], fun _ => hp, h⟩

theorem itemsSound_wait {ms : Nat} {ok : List Edit} {p : Pins} {rest : List Item} (hp : Lit p)
    (h : itemsSound true p rest = true) : itemsSound true p (waitItem ms ok :: rest) = true :=
  itemsSound_cons.mpr ⟨nofun, by simp [waitItem], by simp [waitItem], fun _ => hp, h⟩

theorem itemsSound_xfer {bs : List Byte} {ok bad : List Edit} {p : Pins} {rest : List Item} {lvl : Level} (hp : Lit p)
    (hd : p.dc = .driven lvl) (hbad : Edit.busOpen ∉ bad) (h : itemsSound true p rest = true) :
    itemsSound true p (⟨.xfer bs, ok, bad⟩ :: rest) = true :=
  itemsSound_cons.mpr ⟨fun _ _ => ⟨lvl, hd⟩, hbad, by simp, fun _ => hp, h⟩

theorem itemsSound_command {b : Byte} {ok bad : List Edit} {p : Pins} {rest : List Item} (hp : Lit p)
    (hbad : Edit.busOpen ∉ bad) (h : itemsSound true { p with dc := .driven .low } rest = true) :
    itemsSound true p (commandItems b ok bad ++ rest) = true :=
  itemsSound_pin_dc hp (itemsSound_xfer hp rfl hbad h)

theorem itemsSound_transfers {ok bad : List Edit} {p : Pins} {rest : List Item} {lvl : Level} (hp : Lit p)
    (hd : p.dc = .driven lvl) (hbad : Edit.busOpen ∉ bad) (h : itemsSound true p rest = true) (ts : List (List Byte)) :
    itemsSound true p (transferItems ok bad ts ++ rest) = true := by
  induction ts with
  | nil => exact h
  | cons t ts ih =>
    cases ts with
    | nil => exact itemsSound_xfer hp hd hbad h
    | cons u us => exact itemsSound_xfer hp hd hbad ih

theorem itemsSound_payload {cfg : Config} {bs : List Byte} {ok bad : List Edit} {p : Pins} {rest : List Item}
    (hp : Lit p) (hbad : Edit.busOpen ∉ bad) (h : itemsSound true { p with dc := .driven .high } rest = true) :
    itemsSound true p (payloadItems cfg bs ok bad ++ rest) = true :=
  itemsSound_pin_dc hp (itemsSound_transfers (p := { p with dc := .driven .high }) hp rfl hbad h _)

theorem itemsSound_window {cfg : Config} {w : Window} {p : Pins} {rest : List Item} (hp : Lit p)
    (h : itemsSound true { p with dc := .driven .high } rest = true) :
    itemsSound true p (windowItems cfg w ++ rest) = true := by
  simp only [windowItems, List.append_assoc]
  exact itemsSound_command hp (by simp) (itemsSound_payload hp (by simp) (itemsSound_command hp (by simp)
    (itemsSound_payload hp (by simp) h)))

theorem itemsSound_init (cfg : Config) {p : Pins} (hp : Lit p) : itemsSound true p (initItems cfg) = true := by
  rw [← List.append_nil (initItems cfg)]
  simp only [initItems, List.append_assoc]
  exact itemsSound_command hp (by simp) (itemsSound_wait hp (itemsSound_command hp (by simp)
    (itemsSound_payload hp (by simp) (itemsSound_command hp (by simp) (itemsSound_payload hp (by simp)
      (itemsSound_command hp (by simp) rfl))))))

theorem itemsSound_present (cfg : Config) (canvas : Memory Colour) {p : Pins} (hp : Lit p) :
    itemsSound true p (presentItems cfg canvas) = true := by
  rw [← List.append_nil (presentItems cfg canvas)]
  simp only [presentItems, ramWriteItems, List.append_assoc]
  exact itemsSound_window hp (itemsSound_command hp (by simp) (itemsSound_payload hp (by simp) rfl))

/-- A direct command byte never opens the bus. -/
theorem busOpen_notMem_directEdits (b : Byte) : Edit.busOpen ∉ directEdits b := by
  unfold directEdits
  split <;> simp

/-- HARD_RESET drives RESET and nothing else: the pins are lit after each event if they were. -/
theorem itemsSound_hardReset (cfg : Config) {b : Bool} {p : Pins} (hp : b = true → p.backlight = .driven .high) :
    itemsSound b p (hardResetItems cfg) = true := by
  cases b with
  | false => simp [itemsSound, hardResetItems, pinItem, waitItem, pinsAfter]
  | true => simp [itemsSound, hardResetItems, pinItem, waitItem, pinsAfter, hp rfl]

/-- SETUP has configured RESET and put the backlight on when its last call opens the bus, whatever the pins were. -/
theorem itemsSound_setup (cfg : Config) (p : Pins) : itemsSound false p (setupItems cfg) = true := by
  simp [itemsSound, setupItems, configItem, pinItem, pinsAfter]

/-- Every operation that is started asks for a list that is sound for the pins of the moment. -/
theorem askOf_itemsSound {i : Instr} {a : Ask} {s : State} (hs : s.busOpen = true → Lit s.pins)
    (ha : askOf i s = some a) (hstop : a.stop = none) : itemsSound s.busOpen s.pins a.items = true := by
  cases i <;> cases ha
  case setup =>
    have hb : s.busOpen = false := by simpa [askSetup, askEvents] using hstop
    rw [hb]
    exact itemsSound_setup s.cfg s.pins
  case hardReset => exact itemsSound_hardReset s.cfg fun h => (hs h).1
  case encode | clear | draw | reserved0xB | reserved0xC0xF => rfl
  all_goals
    have hb : s.busOpen = true := needsBus_eq_none.mp hstop
    have hp := hs hb
    rw [hb]
  case initSequence => exact itemsSound_init s.cfg hp
  case setAddressWindow x0 y0 x1 y1 =>
    have := itemsSound_window (cfg := s.cfg) (w := ⟨x0, y0, x1, y1⟩) (rest := []) hp rfl
    rwa [List.append_nil] at this
  case beginRamWrite => exact itemsSound_command (rest := []) hp (by simp) rfl
  case writeCommandByte b => exact itemsSound_command (rest := []) hp (busOpen_notMem_directEdits b) rfl
  case writeDataBytes bs =>
    have := itemsSound_payload (cfg := s.cfg) (bs := bs) (ok := []) (bad := []) (rest := []) hp (by simp) rfl
    rwa [List.append_nil] at this
  case present => exact itemsSound_present s.cfg s.canvas hp

/-! ### The pin invariant -/

/-- The pin invariant, its first two clauses taken together. -/
theorem pinInv_iff (s : State) : PinInv s ↔
    DcAgrees s.pins s.trace ∧ (s.busOpen = true → Lit s.pins) ∧
      ∀ o, s.op = some o → itemsSound s.busOpen s.pins (o.items.drop s.seq) = true := by
  simp only [PinInv, DcAgrees, Lit, and_assoc]

/-- The entry that is due is the first of a sound rest. -/
theorem pinInv_due {o : Running} {it : Item} {s : State} (h : PinInv s) (ho : s.op = some o)
    (hi : o.items[s.seq]? = some it) :
    itemsSound s.busOpen s.pins (it :: o.items.drop (s.seq + 1)) = true := by
  obtain ⟨hlt, rfl⟩ := List.getElem?_eq_some_iff.mp hi
  obtain ⟨-, -, hsound⟩ := (pinInv_iff s).mp h
  rw [← List.drop_eq_getElem_cons hlt]
  exact hsound o ho

/-- When an operation has ended, only the first three clauses say something. -/
theorem pinInv_of_ended {s : State} (ho : s.op = none) (hdc : DcAgrees s.pins s.trace)
    (hlit : s.busOpen = true → Lit s.pins) : PinInv s :=
  (pinInv_iff s).mpr ⟨hdc, hlit, fun o h => by simp [ho] at h⟩

theorem pinInv_endOp {e : ErrClass} {s : State} (h : PinInv s) : PinInv (endOp e s) := by
  obtain ⟨hdc, hlit, -⟩ := (pinInv_iff s).mp h
  exact pinInv_of_ended rfl hdc hlit

theorem pinInv_latch {i : Instr} {a : Ask} {s : State} (h : PinInv s) (ha : askOf i s = some a)
    (hstop : a.stop = none) : PinInv (latch a s) := by
  obtain ⟨hdc, hlit, -⟩ := (pinInv_iff s).mp h
  refine (pinInv_iff _).mpr ⟨hdc, hlit, fun o ho => ?_⟩
  cases ho
  exact askOf_itemsSound (s := s) hlit ha hstop

theorem pinInv_happen {o : Running} {it : Item} {s : State} (h : PinInv s) (ho : s.op = some o)
    (hi : o.items[s.seq]? = some it) : PinInv (happen it s) := by
  obtain ⟨hx, -, -, hlit, hrest⟩ := itemsSound_cons.mp (pinInv_due h ho hi)
  obtain ⟨hdc, -, -⟩ := (pinInv_iff s).mp h
  refine (pinInv_iff _).mpr ⟨?_, ?_, fun o' ho' => ?_⟩
  · simpa using hdc.event hx
  · simpa using hlit
  · obtain rfl : o = o' := by simpa [ho] using ho'
    simpa using hrest

/-- A failing entry opens no bus, and what it sent it sent under a driven DC. -/
theorem pinInv_fail {o : Running} {it : Item} {s u : State} (h : PinInv s) (ho : s.op = some o)
    (hi : o.items[s.seq]? = some it) (hu : CutOff it s u) : PinInv (endOp .transport (applyEdits it.onFail u)) := by
  obtain ⟨hx, hbad, -⟩ := itemsSound_cons.mp (pinInv_due h ho hi)
  obtain ⟨hdc, hlit, -⟩ := (pinInv_iff s).mp h
  refine pinInv_of_ended rfl ?_ ?_
  · rcases hu with rfl | rfl | ⟨bs, k, he, rfl⟩
    · exact hdc
    · exact hdc
    · exact hdc.event fun _ _ => hx bs he
  · simpa [hbad, hu.busOpen, hu.pins] using hlit

theorem pinInv_keptOps : KeptOps PinInv where
  race _ h := h
  configuration _ _ h := pinInv_endOp h
  latch _ _ _ ha _ hstop _ h := pinInv_latch h ha hstop
  tick _ h := tick_keeps h (fun _ _ ho hi _ => pinInv_happen h ho hi) (fun _ _ _ ho hi hu => pinInv_fail h ho hi hu)
    (pinInv_endOp h)

/-- Settles O46: the rest of the running list stays sound, and a sound list keeps the pins. -/
theorem pinsKept : Obligations.PinsKept :=
  fun _ _ hs h => (pinInv_keptOps.kept fun _ _ h => h).step (fun _ _ h => h) (fun _ _ h => h) (fun _ _ _ h => h)
    (fun _ _ _ h => h) (fun _ _ h => h) h hs

/-! ### The backlight -/

/-- The pin invariant, with a bus and a backlight that are on if they were on in `s`. -/
def StaysOn (s t : State) : Prop :=
  PinInv t ∧ (s.busOpen = true → t.busOpen = true) ∧
    (s.pins.backlight = .driven .high → t.pins.backlight = .driven .high)

theorem staysOn_keptOps (s : State) : KeptOps (StaysOn s) where
  race _ h := h
  configuration _ _ h := ⟨pinInv_endOp h.1, h.2⟩
  latch _ _ _ ha _ hstop _ h := ⟨pinInv_latch h.1 ha hstop, h.2⟩
  tick t h := by
    obtain ⟨hinv, hopen, hlight⟩ := h
    refine tick_keeps ⟨hinv, hopen, hlight⟩ (fun o it ho hi _ => ⟨pinInv_happen hinv ho hi, fun h => ?_, fun h => ?_⟩)
      (fun o it u ho hi hu => ⟨pinInv_fail hinv ho hi hu, fun h => ?_, fun h => ?_⟩) ⟨pinInv_endOp hinv, hopen, hlight⟩
    · simp [hopen h]
    · obtain ⟨-, -, hnot, -⟩ := itemsSound_cons.mp (pinInv_due hinv ho hi)
      simpa using pinsAfter_backlight_high (hlight h) hnot
    · simp [hu.busOpen, hopen h]
    · simpa [hu.pins] using hlight h

/-- Settles O48: no operation asks for an event that puts the backlight out, and only success of SETUP writes
`bus_open`. -/
theorem backlightStaysOn : Obligations.BacklightStaysOn := by
  intro s t hs h
  obtain ⟨hinv, hopen, hlight⟩ : StaysOn s t :=
    ((staysOn_keptOps s).kept fun _ _ h => h).step (fun _ _ h => h) (fun _ _ h => h) (fun _ _ _ h => h)
      (fun _ _ _ h => h) (fun _ _ h => h) h ⟨hs, id, id⟩
  obtain ⟨-, hlit, -⟩ := (pinInv_iff t).mp hinv
  exact ⟨fun hb => ⟨hopen hb, (hlit (hopen hb)).1⟩, hlight⟩

end Sys2Proof.Machine
end

section
/-! PROOFS, 10_state.md. One operation: a blocking call as steps of the sequencer (R21), one step (R31), and a failed
INIT_SEQUENCE (R27). -/

namespace Sys2Proof.Machine

open Sys2Proof.Safety

/-! ### A blocking call -/

/-- Settles O38: both issue the same operation, and running its latched list is stepping the sequencer. -/
theorem callIsStartThenTicks : Obligations.CallIsStartThenTicks := by
  intro s i _ hi
  obtain ⟨a, -, he, hb⟩ := hostop_performs hi s
  rw [he, hb, perform, launch]
  rcases issue_alike a (runItems a.items) id s with ⟨u, h1, h2⟩ | ⟨r, h1, h2⟩ | ⟨h1, h2⟩ <;> rw [h1, h2]
  · refine ⟨fun t h => ⟨u, 0, rfl, ?_⟩, by simp⟩
    cases h
    rfl
  · simp
  · refine ⟨fun t h => ?_, by simp⟩
    cases h
    obtain ⟨n, hn⟩ := runItems_eq_ticks a.items (latch a s) a.instr a.items rfl rfl rfl
    exact ⟨latch a s, n, rfl, hn⟩

/-! ### One step of the sequencer -/

theorem tick_idle {s : State} (hb : s.busy = false) : tick s = s := by simp [tick, hb]

theorem tick_completes {s : State} {o : Running} (hb : s.busy = true) (ho : s.op = some o)
    (hl : s.seq = o.items.length) : tick s = endOp .none s := by
  simp [tick, hb, ho, hl]

theorem tick_happens {s : State} {o : Running} {it : Item} (hb : s.busy = true) (ho : s.op = some o)
    (hi : o.items[s.seq]? = some it) (hd : doItem it s = .done (happen it s)) : tick s = happen it s := by
  simp [tick, hb, ho, hi, hd]

theorem itemTransfers_pos {it : Item} : 0 < itemTransfers it ↔ ∃ bs, it.event = .xfer bs := by
  unfold itemTransfers
  cases it.event <;> simp

theorem itemCalls_pos {it : Item} : 0 < itemCalls it ↔
    (∃ a b, it.event = .spiOpen a b) ∨ (∃ a, it.event = .spiClk a) ∨ ∃ a, it.event = .spiMode a := by
  unfold itemCalls
  cases it.event <;> simp

/-- Settles O37: the entry that is due happens, the list completes, or nothing runs. -/
theorem tickEmitsOneEvent : Obligations.TickEmitsOneEvent := by
  refine ⟨fun s o it hb ho hi hx hc => ?_, fun s o hb ho hl => tick_completes hb ho hl, fun s => tick_idle⟩
  have hd : doItem it s = .done (happen it s) :=
    doItem_happens (fun h => (itemTransfers_pos.mp h).elim hx) (fun h => hc (itemCalls_pos.mp h))
  rw [tick_happens hb ho hi hd]
  exact ⟨happen_trace it s, happen_seq it s, (happen_busy it s).trans hb, (happen_op it s).trans ho, happen_err it s⟩

/-! ### A failed INIT_SEQUENCE -/

/-- The thirteen entries of INIT_SEQUENCE, one after another: each payload is one byte and goes in one transfer. -/
theorem initItems_eq (cfg : Config) : initItems cfg =
    [pinItem .dc .low, ⟨.xfer [0x11#8], [.ramwr false, .power .awake], [.power .unknown]⟩, waitItem cfg.sleepOutMs [],
     pinItem .dc .low, ⟨.xfer [0x36#8], [.ramwr false], [.madctl none]⟩,
     pinItem .dc .high, ⟨.xfer [cfg.madctlByte], [.madctl (some cfg.madctlByte)], [.madctl none]⟩,
     pinItem .dc .low, ⟨.xfer [0x3A#8], [.ramwr false], [.colmod none]⟩,
     pinItem .dc .high, ⟨.xfer [cfg.colmodByte], [.colmod (some cfg.colmodByte)], [.colmod none]⟩,
     pinItem .dc .low, ⟨.xfer [0x29#8], [.ramwr false, .displayOn (some true)], [.displayOn none]⟩] := by
  simp [initItems, commandItems, payloadItems, transferItems]

theorem blockKept_trans {s t u : State} (h : BlockKept s t) (h' : BlockKept t u) : BlockKept s u := by
  obtain ⟨h1, h2, h3, h4, h5, h6, h7, h8⟩ := h
  obtain ⟨g1, g2, g3, g4, g5, g6, g7, g8⟩ := h'
  exact ⟨g1.trans h1, g2.trans h2, g3.trans h3, g4.trans h4, g5.trans h5, g6.trans h6, g7.trans h7, g8.trans h8⟩

/-- Latching an operation that writes no canvas and returns no bytes. -/
theorem blockKept_latch {a : Ask} {s : State} (hc : a.canvas = s.canvas) (he : a.encOut = s.encOut) :
    BlockKept s (latch a s) := ⟨hc, he, rfl, rfl, rfl, rfl, rfl, rfl⟩

theorem play_busOpen (items : List Item) {s : State} (hb : s.busOpen = true) : (play items s).busOpen = true := by
  obtain ⟨-, -, -, -, -, -, h, -⟩ := play_fields items s
  simp [h, hb]

/-- On an open bus no entry that happens writes `bus_open` anew. -/
theorem blockKept_play (items : List Item) {s : State} (hb : s.busOpen = true) : BlockKept s (play items s) := by
  obtain ⟨hcfg, -, -, -, -, hrace, -, -, hcanvas, -, -, henc, hwatcher, hinputs, hpres⟩ := play_fields items s
  exact ⟨hcanvas, henc, (play_busOpen items hb).trans hb.symm, hcfg, hrace, hwatcher, hinputs, hpres⟩

theorem blockKept_failTransfer (it : Item) (sent : List Byte) {s : State} (hb : s.busOpen = true) :
    BlockKept s (failTransfer it sent (takeTransferAnswer s)) := by
  unfold failTransfer
  split <;> simp [BlockKept, Untouched, hb]

/-- An INIT_SEQUENCE whose entry number `n`, a transfer, is the first to fail: the records of the entries before it are
made, then those of its failure. -/
theorem initSequence_fails_at {s : State} {n k : Nat} {it : Item} {bs : List Byte} (hs : Idle s) (hb : s.busOpen = true)
    (hn : (initItems s.cfg)[n]? = some it) (he : it.event = .xfer bs)
    (hc : listCalls ((initItems s.cfg).take n) = 0)
    (ht : TransfersComplete s (listTransfers ((initItems s.cfg).take n)))
    (hf : transferAnswer s.world (listTransfers ((initItems s.cfg).take n)) = .fail k) :
    ∃ t, exec .initSequence s = .next t ∧ Ended t .transport ∧ BlockKept s t ∧
      t.shadow = it.onFail.foldl editShadow
        (((initItems s.cfg).take n).foldl (fun sh it => it.onOk.foldl editShadow sh) s.shadow) := by
  have hrun := runItems_fails_at (s := latch (askInitSequence s) s) hn he ht hc hf
  refine ⟨_, perform_runs hs.1 hs.2 rfl (needsBus_eq_none.mpr hb), ?_, ?_, ?_⟩ <;>
    rw [show (askInitSequence s).items = initItems s.cfg from rfl, hrun]
  · exact ⟨rfl, rfl, rfl, rfl⟩
  · have hlatch : BlockKept s (latch (askInitSequence s) s) := blockKept_latch rfl rfl
    exact blockKept_trans (blockKept_trans hlatch (blockKept_play _ hb))
      (blockKept_failTransfer it _ (play_busOpen _ hb))
  · obtain ⟨-, -, -, -, -, -, -, -, -, hshadow, -⟩ :=
      play_fields ((initItems s.cfg).take n) (latch (askInitSequence s) s)
    rw [failTransfer_shadow, takeTransferAnswer_shadow, hshadow, latch_shadow]

/-- Where the `j`-th transfer of INIT_SEQUENCE stands in its list: a command or data byte follows its DC level, and the
first delay comes after the first byte. -/
def initTransferPlace (j : Nat) : Nat := if j = 0 then 1 else 2 * j + 2

/-- At its place stands a transfer, with `j` transfers and no configuration call before it. -/
theorem initItems_transfer (cfg : Config) {j : Nat} (hj : j < 6) :
    listTransfers ((initItems cfg).take (initTransferPlace j)) = j ∧
    listCalls ((initItems cfg).take (initTransferPlace j)) = 0 ∧
    ∃ it bs, (initItems cfg)[initTransferPlace j]? = some it ∧ it.event = .xfer bs := by
  rw [initItems_eq]
  interval_cases j <;> simp [initTransferPlace, itemTransfers, itemCalls, pinItem, waitItem]

/-- Settles O33: for each of the six transfers, the records of the frames before it and of its own failure. -/
theorem failedInitShadow : Obligations.FailedInitShadow := by
  intro s j k hs hb hj hc hf
  obtain ⟨hcount, hcalls, it, bs, hit, he⟩ := initItems_transfer s.cfg hj
  obtain ⟨t, hexec, hended, hkept, hshadow⟩ :=
    initSequence_fails_at hs hb hit he hcalls (by rwa [hcount]) (by rwa [hcount])
  refine ⟨t, hexec, hended, hkept, ?_⟩
  rw [hshadow]
  rw [initItems_eq] at hit ⊢
  interval_cases j <;> cases hit <;> exact ⟨rfl, rfl, rfl, rfl, rfl, rfl⟩

end Sys2Proof.Machine
end

section
/-! PROOFS, 10_state.md. The fields no operation reads (R22, R26): a run beside the same run with another shadow and
another `err`. -/

namespace Sys2Proof.Machine

open Sys2Proof.Safety

/-- The same state with another shadow and another `err`. -/
def withRecord (sh : Shadow) (e : ErrClass) (s : State) : State := { s with shadow := sh, err := e }

/-- Two states that agree on every field but the shadow and `err`. -/
def Twins (s s' : State) : Prop := ∃ sh e, s' = withRecord sh e s

/-- Written over with the other's shadow and `err`, a twin is the other. -/
theorem Twins.eq {s s' : State} (h : Twins s s') : { s' with shadow := s.shadow, err := s.err } = s := by
  obtain ⟨sh, e, rfl⟩ := h
  rfl

theorem twins_endOp (sh : Shadow) (e c : ErrClass) (s : State) : Twins (endOp c s) (endOp c (withRecord sh e s)) :=
  ⟨sh, c, rfl⟩

/-- The two of them end an operation with the same error after a failed call; each has made its records. -/
theorem twins_cutOff (sh : Shadow) (e : ErrClass) (es : List Edit) (s : State) :
    Twins (endOp .transport (applyEdits es s)) (endOp .transport (applyEdits es (withRecord sh e s))) :=
  ⟨es.foldl editShadow sh, .transport, rfl⟩

theorem twins_failTransfer (sh : Shadow) (e : ErrClass) (it : Item) (sent : List Byte) (s : State) :
    Twins (failTransfer it sent s) (failTransfer it sent (withRecord sh e s)) := by
  unfold failTransfer
  split <;> exact ⟨it.onFail.foldl editShadow sh, .transport, rfl⟩

/-- An entry that happens makes its records in either shadow and leaves either `err`. -/
theorem happen_withRecord (sh : Shadow) (e : ErrClass) (it : Item) (s : State) :
    happen it (withRecord sh e s) = withRecord (it.onOk.foldl editShadow sh) e (happen it s) := by
  unfold happen
  split <;> rfl

/-- An entry has the same outcome in either: only the outside world's answers decide it. -/
theorem doItem_twins (sh : Shadow) (e : ErrClass) (it : Item) (s : State) :
    (doItem it s = .done (happen it s) ∧ doItem it (withRecord sh e s) = .done (happen it (withRecord sh e s))) ∨
    (∃ u u', Twins u u' ∧ doItem it s = .failed u ∧ doItem it (withRecord sh e s) = .failed u') ∨
    (doItem it s = .stalled s ∧ doItem it (withRecord sh e s) = .stalled (withRecord sh e s)) := by
  rcases doItem_cases it s with ⟨h, ht, hc⟩ | ⟨bs, k, he, ha, h⟩ | ⟨hc, ha, h⟩ | ⟨bs, he, ha, h⟩
  · refine .inl ⟨h, doItem_happens (fun hp => ht ?_) (fun hp => hc ?_)⟩
    · obtain ⟨bs, he⟩ := itemTransfers_pos.mp hp
      simp [itemTransfers, he]
    · unfold itemCalls at hp ⊢
      split at hp <;> simp_all
  · have ha' : transferAnswer (withRecord sh e s).world 0 = .fail k := ha
    exact .inr (.inl ⟨_, _, twins_failTransfer sh e it _ _, h, by simp only [doItem, he, ha']; rfl⟩)
  · have ha' : callAnswer (withRecord sh e s).world 0 = false := ha
    rcases doItem_cases it (withRecord sh e s) with ⟨-, -, hc'⟩ | ⟨bs, k, he, -⟩ | ⟨-, -, h'⟩ | ⟨bs, he, -⟩
    · simp [hc' hc] at ha'
    · simp [itemCalls, he] at hc
    · exact .inr (.inl ⟨_, _, twins_cutOff sh e it.onFail _, h, h'⟩)
    · simp [itemCalls, he] at hc
  · have ha' : transferAnswer (withRecord sh e s).world 0 = .never := ha
    exact .inr (.inr ⟨h, by simp only [doItem, he, ha']⟩)

theorem runItems_twins (sh : Shadow) (e : ErrClass) (items : List Item) (s : State) :
    Twins (runItems items s) (runItems items (withRecord sh e s)) := by
  induction items generalizing s sh with
  | nil => exact twins_endOp sh e .none s
  | cons it rest ih =>
    rcases doItem_twins sh e it s with ⟨h, h'⟩ | ⟨u, u', hu, h, h'⟩ | ⟨h, h'⟩
    · rw [runItems_cons_done h, runItems_cons_done h', happen_withRecord]
      exact ih _ _
    · simpa [runItems, h, h'] using hu
    · simpa [runItems, h, h'] using ⟨sh, e, rfl⟩

/-- Two outcomes that are next states that are twins, or the same refusal. -/
def AnswerAlike (o o' : Host.Outcome State Fault Refusal) : Prop :=
  (∃ t t', Twins t t' ∧ o = .next t ∧ o' = .next t') ∨ ∃ r, o = .refused r ∧ o' = .refused r

theorem perform_alike (sh : Shadow) (e : ErrClass) (a : Ask) (s : State) :
    AnswerAlike (perform a s) (perform a (withRecord sh e s)) := by
  rcases issue_cases a (runItems a.items) s with ⟨hr, h⟩ | ⟨hr, hb, h⟩ | ⟨hr, hb, hi, h⟩ | ⟨hr, hb, hi, r, hs, h⟩ |
    ⟨hr, hb, hi, hs, h⟩
  · exact .inr ⟨_, h, by simp [perform, issue, withRecord, hr]⟩
  · exact .inl ⟨_, _, ⟨sh, e, rfl⟩, h, by simp [perform, issue, withRecord, hr, hb]; rfl⟩
  · exact .inl ⟨_, _, twins_endOp sh e .configuration s, h, perform_illegal hr hb hi⟩
  · exact .inr ⟨_, h, by simp [perform, issue, withRecord, hr, hb, hi, hs]⟩
  · exact .inl ⟨_, _, runItems_twins sh e a.items (latch a s), h, perform_runs hr hb hi hs⟩

theorem arriveFrame_alike (sh : Shadow) (e : ErrClass) (c : Byte) (data : List Byte) (s : State) :
    AnswerAlike (arriveFrame c data s) (arriveFrame c data (withRecord sh e s)) := by
  cases hr : s.race with
  | true => exact .inr ⟨.raced, by simp [arriveFrame, hr], by simp [arriveFrame, withRecord, hr]⟩
  | false =>
    exact .inl ⟨_, _, ⟨sh, e, rfl⟩, by rw [arriveFrame, hr]; rfl, by rw [arriveFrame, withRecord, hr]; rfl⟩

theorem arriveData_alike (sh : Shadow) (e : ErrClass) (data : List Byte) (s : State) :
    AnswerAlike (arriveData data s) (arriveData data (withRecord sh e s)) := by
  cases hr : s.race with
  | true => exact .inr ⟨.raced, by simp [arriveData, hr], by simp [arriveData, withRecord, hr]⟩
  | false =>
    exact .inl ⟨_, _, ⟨sh, e, rfl⟩, by rw [arriveData, hr]; rfl, by rw [arriveData, withRecord, hr]; rfl⟩

/-- What an instruction asks for does not look at the shadow or `err`. -/
theorem askOf_withRecord (sh : Shadow) (e : ErrClass) (i : Instr) (s : State) :
    askOf i (withRecord sh e s) = askOf i s := by
  cases i <;> rfl

theorem exec_alike (sh : Shadow) (e : ErrClass) (i : Instr) (s : State) :
    AnswerAlike (exec i s) (exec i (withRecord sh e s)) := by
  rcases exec_cases i s with ⟨a, ha, he, -⟩ | ⟨c, data, he⟩ | ⟨data, he⟩
  · have ha' : askOf i (withRecord sh e s) = some a := (askOf_withRecord sh e i s).trans ha
    have he' : exec i (withRecord sh e s) = perform a (withRecord sh e s) := by
      rcases exec_cases i (withRecord sh e s) with ⟨b, hb, h, -⟩ | ⟨c, data, h⟩ | ⟨data, h⟩
      · rw [h, Option.some.inj (hb.symm.trans ha')]
      · simp [(h s).1] at ha
      · simp [(h s).1] at ha
    rw [he, he']
    exact perform_alike sh e a s
  · rw [(he s).2.1, (he _).2.1]
    exact arriveFrame_alike sh e c data s
  · rw [(he s).2.1, (he _).2.1]
    exact arriveData_alike sh e data s

/-- Settles O40: every instruction answers alike with another shadow and another `err`. -/
theorem shadowAndErrNeverRead : Obligations.ShadowAndErrNeverRead := by
  intro s i sh e
  change (∀ t, exec i s = .next t → ∃ t', exec i (withRecord sh e s) = .next t' ∧ _) ∧
    ∀ r, exec i s = .refused r → exec i (withRecord sh e s) = .refused r
  rcases exec_alike sh e i s with ⟨t, t', ht, h, h'⟩ | ⟨r, h, h'⟩ <;> rw [h, h']
  · refine ⟨fun u hu => ⟨t', rfl, ?_⟩, by simp⟩
    cases hu
    exact ht.eq
  · simp

end Sys2Proof.Machine
end

section
/-! PROOFS, 10_state.md R31, R33. The events of a step: what they append to the trace, when, and that they alone reach
the pins and the panel. Then the values at power-on (R34). -/

namespace Sys2Proof.Machine

open Sys2Proof.Safety

/-! ### The events since a state -/

/-- Timed events lead from `s` to `t`: they are what the trace has grown by, in order and within the time passed. Under
`q`, nothing is presented and they are all the pins and the panel have taken. -/
def Since (q : Prop) (s t : State) : Prop :=
  t.cfg = s.cfg ∧ s.now ≤ t.now ∧ ∃ es : List (Nat × Event), t.trace = s.trace ++ es.map Prod.snd ∧
    (es.map Prod.fst).Pairwise (· ≤ ·) ∧ (∀ e, e ∈ es → s.now ≤ e.1 ∧ e.1 ≤ t.now) ∧
    (q → t.presented = [] ∧ (t.pins, t.panel) = hear s.cfg es (s.pins, s.panel))

theorem Since.refl {q : Prop} {s : State} (hq : q → s.presented = []) : Since q s s :=
  ⟨rfl, le_rfl, [], by simp, .nil, by simp, fun h => ⟨hq h, rfl⟩⟩

/-- One more event is taken at its own time, which is not before now. -/
theorem Since.emit {q : Prop} {s t : State} (h : Since q s t) (e : Event) : Since q s (emit e t) := by
  obtain ⟨hcfg, hnow, es, htrace, hsorted, htimes, hheard⟩ := h
  have hle : t.now ≤ eventTime e t := by
    unfold eventTime
    omega
  refine ⟨hcfg, hnow.trans hle, es ++ [(eventTime e t, e)], by simp [htrace], ?_, fun x hx => ?_, fun hq => ?_⟩
  · rw [List.map_append, List.pairwise_append]
    refine ⟨hsorted, List.pairwise_singleton _ _, fun x hx y hy => ?_⟩
    obtain ⟨x', hx', rfl⟩ := List.mem_map.mp hx
    obtain rfl : y = eventTime e t := by simpa using hy
    exact (htimes x' hx').2.trans hle
  · rcases List.mem_append.mp hx with hx | hx
    · exact ⟨(htimes x hx).1, (htimes x hx).2.trans hle⟩
    · obtain rfl := List.mem_singleton.mp hx
      exact ⟨hnow.trans hle, le_rfl⟩
  · obtain ⟨hpres, hpins⟩ := hheard hq
    have hlast : hear s.cfg (es ++ [(eventTime e t, e)]) (s.pins, s.panel) =
        (pinsAfter e t.pins, panelSee s.cfg (eventTime e t) t.pins.dc e t.panel) := by
      unfold hear at hpins ⊢
      rw [List.foldl_append, ← hpins]
      rfl
    exact ⟨hpres, by rw [hlast, emit_pins, emit_panel, hcfg]⟩

theorem Since.happen {q : Prop} {s t : State} (h : Since q s t) (it : Item) : Since q s (happen it t) := by
  have h' : Since q s (Machine.emit it.event t) := h.emit it.event
  unfold Machine.happen
  split <;> exact h'

/-- A failing entry appends what it sent, at its own time. -/
theorem Since.fail {q : Prop} {s t u : State} (h : Since q s t) {it : Item} (hu : CutOff it t u) :
    Since q s (endOp .transport (applyEdits it.onFail u)) := by
  rcases hu with rfl | rfl | ⟨bs, k, -, rfl⟩
  · exact h
  · exact h
  · exact Since.emit (t := takeTransferAnswer t) h _

/-- Bytes that reach the panel by themselves are no event of the block. -/
theorem Since.withPanel {s t : State} (h : Since False s t) (p : Panel) : Since False s (withPanel t p) := by
  obtain ⟨hcfg, hnow, es, htrace, hsorted, htimes, -⟩ := h
  have hle : t.now ≤ arrival t := Nat.le_add_right _ _
  exact ⟨hcfg, hnow.trans hle, es, htrace, hsorted, fun x hx => ⟨(htimes x hx).1, (htimes x hx).2.trans hle⟩,
    False.elim⟩

theorem since_keptOps (q : Prop) (s : State) : KeptOps (Since q s) where
  race _ h := h
  configuration _ _ h := h
  latch _ _ _ _ _ _ _ h := h
  tick _ h := tick_keeps h (fun _ it _ _ _ => h.happen it) (fun _ _ _ _ _ hu => h.fail hu) h

/-- Settles O41: with nothing presented a step is a step of the sequencer or a move, and only events reach the panel;
with something presented only the trace and the times are claimed. -/
theorem traceGrowsAndFeedsPanel : Obligations.TraceGrowsAndFeedsPanel := by
  intro s t h
  have hsince : Since (s.presented = []) s t := by
    have h0 : Since (s.presented = []) s s := .refl id
    by_cases hp : s.presented = []
    · rcases step_cases h hp with rfl | ⟨m, rest, -, hm⟩
      · exact (since_keptOps _ s).tick s h0
      · exact (since_keptOps _ s).move (fun _ _ h => h) (fun _ _ _ h => h) (fun _ _ _ h => h) (fun _ _ h => h) hm h0
    · simp only [hp] at h0 ⊢
      refine ((since_keptOps False s).kept fun _ p h => h.withPanel p).step (fun _ _ h => h) (fun u l h => ?_)
        (fun _ _ _ h => h) (fun _ _ _ h => h) (fun _ _ h => h) h h0
      obtain ⟨hcfg, hnow, es, htrace, hsorted, htimes, -⟩ := h
      exact ⟨hcfg, hnow, es, htrace, hsorted, htimes, False.elim⟩
  obtain ⟨-, -, hes⟩ := hsince
  exact hes

/-! ### Power-on -/

/-- Settles O1: the values of the reset state, field by field. -/
theorem powerOnState : Obligations.PowerOnState :=
  ⟨rfl, rfl, rfl, rfl, rfl, rfl, rfl, rfl, rfl, rfl, rfl, rfl, fun _ _ => ⟨rfl, rfl⟩, rfl, rfl, rfl, rfl, rfl, rfl, rfl,
    fun _ => rfl, rfl⟩

theorem memInv_reset : MemInv State.reset :=
  ⟨.nil, nofun, .nil, fun _ h => nomatch h⟩

theorem pinInv_reset : PinInv State.reset :=
  pinInv_of_ended rfl ⟨nofun, nofun⟩ nofun

/-- Settles O47: nothing runs, nothing is stored, nothing has been sent and no pin is driven. -/
theorem invariantsAtPowerOn : Obligations.InvariantsAtPowerOn :=
  ⟨⟨fun _ => ⟨rfl, rfl⟩, nofun⟩, memInv_reset, pinInv_reset, nofun⟩

end Sys2Proof.Machine
end

section
/-! PROOFS, 20_memory.md R63, 10_state.md R22. Races: what a host operation does while another runs, and after a race. -/

namespace Sys2Proof.Machine

open Sys2Proof.Safety

/-! ### Races -/

theorem issue_busy (a : Ask) (go : State → State) {s : State} (hr : s.race = false) (hb : s.busy = true) :
    issue a go s = .next (setRace s) := by
  simp [issue, hr, hb]

theorem exec_raced (i : Instr) {s : State} (hr : s.race = true) : exec i s = .refused .raced := by
  rcases exec_cases i s with ⟨a, -, he, -⟩ | ⟨c, data, he⟩ | ⟨data, he⟩
  · simp [he, perform, issue, hr]
  · simp [(he s).2.1, arriveFrame, hr]
  · simp [(he s).2.1, arriveData, hr]

theorem step_raced {s : State} (hr : s.race = true) : step s = .refused .raced := by
  simp [step, advance, hr]

/-- Settles O29: performed or launched, a host operation is issued, and issuing, the bytes at the panel and the step all
look at `race` first. -/
theorem raceIsSticky : Obligations.RaceIsSticky := by
  refine ⟨fun s i hi hr hb => ?_, fun s i hr => exec_raced i hr, fun s hr => step_raced hr⟩
  obtain ⟨a, -, he, hbegin⟩ := hostop_performs hi s
  exact ⟨⟨setRace s, he.trans (issue_busy a _ hr hb), rfl⟩, setRace s, hbegin.trans (issue_busy a _ hr hb), rfl⟩

end Sys2Proof.Machine
end

section
/-! PROOFS, 20_memory.md R50, R60, 44_wire_commands.md R162, R168 to R172. What the receiver can do with one byte, its
window and pointer inside the panel, and the memory invariant over every step. -/

namespace Sys2Proof.Machine

open Sys2Proof.Safety

/-! ### One byte at the receiver -/

/-- The command byte of MEM_WRITE leaves the receiver known only in the configured format, with the whole window set. -/
theorem takeMemWrite_cases {cfg : Config} {r r' : PanelRegs} (h : takeMemWrite cfg r = some r') :
    r.mode = .awake ∧ r.colmod = some cfg.colmodByte ∧ ∃ xs xe ys ye, r.xs = some xs ∧ r.xe = some xe ∧
      r.ys = some ys ∧ r.ye = some ye ∧ r' = { r with ptr := .pos xs.toNat ys.toNat, latch := none } := by
  unfold takeMemWrite at h
  split at h
  · rename_i xs xe ys ye hxs hxe hys hye
    obtain ⟨⟨hm, hf⟩, rfl⟩ := by simpa using h
    exact ⟨hm, hf, xs, xe, ys, ye, hxs, hxe, hys, hye, rfl⟩
  · cases h

/-- Everything the receiver can do with a command byte that leaves it known. -/
theorem takeCommand_cases {cfg : Config} {now : Nat} {c : Byte} {r r' : PanelRegs}
    (h : takeCommand cfg now c r = some r') :
    r.tOk ≤ now ∧
    ((c = 0x11#8 ∧ r' = { startFrame c r with mode := .awake, tOk := now + micros cfg.sleepOutMs }) ∨
     (startFrame c r).mode = .awake ∧
      ((c = 0x29#8 ∧ r' = { startFrame c r with dispOn := some true }) ∨
       (c = 0x2A#8 ∧ r' = { startFrame c r with xs := none, xe := none, ptr := .none }) ∨
       (c = 0x2B#8 ∧ r' = { startFrame c r with ys := none, ye := none, ptr := .none }) ∨
       (c = 0x2C#8 ∧ (startFrame c r).colmod = some cfg.colmodByte ∧ ∃ xs xe ys ye,
          (startFrame c r).xs = some xs ∧ (startFrame c r).xe = some xe ∧ (startFrame c r).ys = some ys ∧
          (startFrame c r).ye = some ye ∧ r' = { startFrame c r with ptr := .pos xs.toNat ys.toNat, latch := none }) ∨
       ((c = 0x36#8 ∨ c = 0x3A#8) ∧ r' = startFrame c r))) := by
  unfold takeCommand at h
  split at h
  · cases h
  · rename_i ht
    refine ⟨Nat.le_of_not_lt ht, ?_⟩
    split at h <;> rename_i hc
    · cases h
      exact .inl ⟨BitVec.eq_of_toNat_eq hc, rfl⟩
    · obtain ⟨hm, rfl⟩ := by simpa [takeDisplayOn] using h
      exact .inr ⟨hm, .inl ⟨BitVec.eq_of_toNat_eq hc, rfl⟩⟩
    · obtain ⟨hm, rfl⟩ := by simpa [takeColAddrSet] using h
      exact .inr ⟨hm, .inr (.inl ⟨BitVec.eq_of_toNat_eq hc, rfl⟩)⟩
    · obtain ⟨hm, rfl⟩ := by simpa [takeRowAddrSet] using h
      exact .inr ⟨hm, .inr (.inr (.inl ⟨BitVec.eq_of_toNat_eq hc, rfl⟩))⟩
    · obtain ⟨hm, hw⟩ := takeMemWrite_cases h
      exact .inr ⟨hm, .inr (.inr (.inr (.inl ⟨BitVec.eq_of_toNat_eq hc, hw⟩)))⟩
    · obtain ⟨hm, rfl⟩ := by simpa [takeMemAccessCtl] using h
      exact .inr ⟨hm, .inr (.inr (.inr (.inr ⟨.inl (BitVec.eq_of_toNat_eq hc), rfl⟩)))⟩
    · obtain ⟨hm, rfl⟩ := by simpa [takePixelFormat] using h
      exact .inr ⟨hm, .inr (.inr (.inr (.inr ⟨.inr (BitVec.eq_of_toNat_eq hc), rfl⟩)))⟩
    · cases h

theorem cmd_eq_of_toNat {o : Option Byte} {c : Byte} (h : o.map BitVec.toNat = some c.toNat) : o = some c := by
  obtain ⟨b, rfl, hb⟩ := Option.map_eq_some_iff.mp h
  rw [BitVec.eq_of_toNat_eq hb]

/-- Everything a data byte of COL_ADDR_SET can do that leaves the receiver known. -/
theorem dataColAddrSet_cases {cfg : Config} {d : Byte} {r r' : PanelRegs} (h : dataColAddrSet cfg d r = some r') :
    (r.idx < 3 ∧ r' = keepArg d r) ∨
    ∃ d0 d1 d2, r.idx = 3 ∧ r.args = [d0, d1, d2] ∧ (word16 d0 d1).toNat ≤ (word16 d2 d).toNat ∧
      (word16 d2 d).toNat < cfg.width ∧
      r' = { keepArg d r with xs := some (word16 d0 d1), xe := some (word16 d2 d) } := by
  unfold dataColAddrSet at h
  split at h
  · rename_i hi
    cases h
    exact .inl ⟨hi, rfl⟩
  · split at h
    · rename_i d0 d1 d2 hi hargs
      obtain ⟨⟨hle, hlt⟩, rfl⟩ := by simpa only [Option.ite_none_right_eq_some, Option.some.injEq] using h
      exact .inr ⟨d0, d1, d2, hi, hargs, hle, hlt, rfl⟩
    · cases h

/-- Everything a data byte of ROW_ADDR_SET can do that leaves the receiver known. -/
theorem dataRowAddrSet_cases {cfg : Config} {d : Byte} {r r' : PanelRegs} (h : dataRowAddrSet cfg d r = some r') :
    (r.idx < 3 ∧ r' = keepArg d r) ∨
    ∃ d0 d1 d2, r.idx = 3 ∧ r.args = [d0, d1, d2] ∧ (word16 d0 d1).toNat ≤ (word16 d2 d).toNat ∧
      (word16 d2 d).toNat < cfg.height ∧
      r' = { keepArg d r with ys := some (word16 d0 d1), ye := some (word16 d2 d) } := by
  unfold dataRowAddrSet at h
  split at h
  · rename_i hi
    cases h
    exact .inl ⟨hi, rfl⟩
  · split at h
    · rename_i d0 d1 d2 hi hargs
      obtain ⟨⟨hle, hlt⟩, rfl⟩ := by simpa only [Option.ite_none_right_eq_some, Option.some.injEq] using h
      exact .inr ⟨d0, d1, d2, hi, hargs, hle, hlt, rfl⟩
    · cases h

/-- Everything a data byte of MEM_WRITE can do that leaves the receiver known: the high byte of a pixel is held, or the
low one writes the pixel at the pointer. -/
theorem dataMemWrite_cases {cfg : Config} {d : Byte} {r r' : PanelRegs} (h : dataMemWrite cfg d r = some r') :
    r.colmod = some cfg.colmodByte ∧
    ((r.latch = none ∧ r' = { r with latch := some d, idx := r.idx + 1 }) ∨
     ∃ hi x y xs xe ye, r.latch = some hi ∧ r.ptr = .pos x y ∧ r.xs = some xs ∧ r.xe = some xe ∧ r.ye = some ye ∧
      r' = { r with latch := none, idx := r.idx + 1, gram := r.gram.set (posIndex cfg x y) (word16 hi d),
                    ptr := nextPtr xs.toNat xe.toNat ye.toNat x y }) := by
  unfold dataMemWrite at h
  split at h
  · rename_i hf
    refine ⟨hf, ?_⟩
    split at h
    · rename_i hl
      cases h
      exact .inl ⟨hl, rfl⟩
    · rename_i hi hl
      unfold takePixel at h
      split at h
      · rename_i x y xs xe ye hp hxs hxe hye
        cases h
        exact .inr ⟨hi, x, y, xs, xe, ye, hl, hp, hxs, hxe, hye, rfl⟩
      · cases h
  · cases h

/-- Which frame a data byte is of, while it leaves the receiver known. -/
theorem takeData_cases {cfg : Config} {d : Byte} {r r' : PanelRegs} (h : takeData cfg d r = some r') :
    (r.cmd = some 0x36#8 ∧ r.idx = 0 ∧ r' = { r with madctl := some d, idx := 1 }) ∨
    (r.cmd = some 0x3A#8 ∧ r.idx = 0 ∧ r' = { r with colmod := some d, idx := 1 }) ∨
    (r.cmd = some 0x2A#8 ∧ dataColAddrSet cfg d r = some r') ∨
    (r.cmd = some 0x2B#8 ∧ dataRowAddrSet cfg d r = some r') ∨
    (r.cmd = some 0x2C#8 ∧ dataMemWrite cfg d r = some r') := by
  unfold takeData at h
  split at h <;> rename_i hc
  · obtain ⟨hi, rfl⟩ := by simpa [dataMemAccessCtl] using h
    exact .inl ⟨cmd_eq_of_toNat hc, hi, rfl⟩
  · obtain ⟨hi, rfl⟩ := by simpa [dataPixelFormat] using h
    exact .inr (.inl ⟨cmd_eq_of_toNat hc, hi, rfl⟩)
  · exact .inr (.inr (.inl ⟨cmd_eq_of_toNat hc, h⟩))
  · exact .inr (.inr (.inr (.inl ⟨cmd_eq_of_toNat hc, h⟩)))
  · exact .inr (.inr (.inr (.inr ⟨cmd_eq_of_toNat hc, h⟩)))
  · cases h

/-! ### The window and the pointer -/

/-- The window registers hold a rectangle inside the panel or nothing (R168, R169). -/
def RectInside (cfg : Config) (r : PanelRegs) : Prop :=
  (∀ a b, r.xs = some a → r.xe = some b → a.toNat ≤ b.toNat ∧ b.toNat < cfg.width) ∧
  ∀ a b, r.ys = some a → r.ye = some b → a.toNat ≤ b.toNat ∧ b.toNat < cfg.height

/-- A position up to the far corner of a window that is set (R171). -/
def BeforeCorner (r : PanelRegs) (x y : Nat) : Prop :=
  ∃ xs xe ys ye, r.xs = some xs ∧ r.xe = some xe ∧ r.ys = some ys ∧ r.ye = some ye ∧ x ≤ xe.toNat ∧ y ≤ ye.toNat

theorem windowInv_iff {cfg : Config} {r : PanelRegs} : WindowInv cfg r ↔
    RectInside cfg r ∧ (r.cmd = some 0x2A#8 ∨ r.cmd = some 0x2B#8 → r.ptr = .none) ∧
      ∀ x y, r.ptr = .pos x y → BeforeCorner r x y := by
  simp only [WindowInv, RectInside, BeforeCorner, and_assoc]

/-- Without a pointer only the rectangle matters. -/
theorem windowInv_of_no_ptr {cfg : Config} {r : PanelRegs} (hr : RectInside cfg r) (hp : r.ptr = .none) :
    WindowInv cfg r :=
  windowInv_iff.mpr ⟨hr, fun _ => hp, fun x y h => by simp [hp] at h⟩

/-- In a memory-write frame the pointer may be anywhere up to the far corner. -/
theorem windowInv_of_memWrite {cfg : Config} {r : PanelRegs} (hr : RectInside cfg r) (hc : r.cmd = some 0x2C#8)
    (hp : ∀ x y, r.ptr = .pos x y → BeforeCorner r x y) : WindowInv cfg r :=
  windowInv_iff.mpr ⟨hr, fun h => by simp [hc] at h, hp⟩

theorem RectInside.no_columns {cfg : Config} {r : PanelRegs} (h : RectInside cfg r) :
    RectInside cfg { r with xs := none, xe := none } := ⟨nofun, h.2⟩

theorem RectInside.no_rows {cfg : Config} {r : PanelRegs} (h : RectInside cfg r) :
    RectInside cfg { r with ys := none, ye := none } := ⟨h.1, nofun⟩

theorem RectInside.columns {cfg : Config} {r : PanelRegs} {a b : Word16} (h : RectInside cfg r)
    (hle : a.toNat ≤ b.toNat) (hlt : b.toNat < cfg.width) : RectInside cfg { r with xs := some a, xe := some b } := by
  refine ⟨fun a' b' ha hb => ?_, h.2⟩
  cases ha
  cases hb
  exact ⟨hle, hlt⟩

theorem RectInside.rows {cfg : Config} {r : PanelRegs} {a b : Word16} (h : RectInside cfg r)
    (hle : a.toNat ≤ b.toNat) (hlt : b.toNat < cfg.height) : RectInside cfg { r with ys := some a, ye := some b } := by
  refine ⟨h.1, fun a' b' ha hb => ?_⟩
  cases ha
  cases hb
  exact ⟨hle, hlt⟩

/-- The frame that ends gives up a window register only if it is an address-set frame, and then there is no pointer. -/
theorem windowInv_endFrame {cfg : Config} {r : PanelRegs} (h : WindowInv cfg r) : WindowInv cfg (endFrame r) := by
  obtain ⟨hr, hset, -⟩ := windowInv_iff.mp h
  unfold endFrame
  split
  · split <;> exact h
  · split <;> exact h
  · rename_i hc
    split
    · exact windowInv_of_no_ptr hr.no_columns (hset (.inl (cmd_eq_of_toNat hc)))
    · exact h
  · rename_i hc
    split
    · exact windowInv_of_no_ptr hr.no_rows (hset (.inr (cmd_eq_of_toNat hc)))
    · exact h
  · exact h

theorem rectInside_startFrame {cfg : Config} {r : PanelRegs} (h : WindowInv cfg r) (c : Byte) :
    RectInside cfg (startFrame c r) := by
  obtain ⟨hr, -⟩ := windowInv_iff.mp (windowInv_endFrame h)
  exact hr

/-- A frame that sets no address may start with a pointer. -/
theorem windowInv_startFrame {cfg : Config} {c : Byte} {r : PanelRegs} (h : WindowInv cfg r) (hx : c ≠ 0x2A#8)
    (hy : c ≠ 0x2B#8) : WindowInv cfg (startFrame c r) := by
  obtain ⟨hr, -, hp⟩ := windowInv_iff.mp (windowInv_endFrame h)
  exact windowInv_iff.mpr ⟨hr, fun hc => by simp [startFrame, hx, hy] at hc, hp⟩

/-- A command byte keeps the window and the pointer inside: an address-set one drops the pointer, memory-write puts it
at the near corner. -/
theorem windowInv_takeCommand {cfg : Config} {now : Nat} {c : Byte} {r r' : PanelRegs} (h : WindowInv cfg r)
    (ht : takeCommand cfg now c r = some r') : WindowInv cfg r' := by
  have hr : RectInside cfg (startFrame c r) := rectInside_startFrame h c
  rcases takeCommand_cases ht with ⟨-, ⟨rfl, rfl⟩ | ⟨-, ⟨rfl, rfl⟩ | ⟨-, rfl⟩ | ⟨-, rfl⟩ |
    ⟨rfl, -, xs, xe, ys, ye, hxs, hxe, hys, hye, rfl⟩ | ⟨rfl | rfl, rfl⟩⟩⟩
  · exact windowInv_startFrame (c := 0x11#8) h (by decide) (by decide)
  · exact windowInv_startFrame (c := 0x29#8) h (by decide) (by decide)
  · exact windowInv_of_no_ptr hr.no_columns rfl
  · exact windowInv_of_no_ptr hr.no_rows rfl
  · refine windowInv_of_memWrite hr rfl fun x y hp => ?_
    cases hp
    exact ⟨xs, xe, ys, ye, hxs, hxe, hys, hye, (hr.1 xs xe hxs hxe).1, (hr.2 ys ye hys hye).1⟩
  · exact windowInv_startFrame h (by decide) (by decide)
  · exact windowInv_startFrame h (by decide) (by decide)

/-- A position up to the far corner is inside the panel. -/
theorem BeforeCorner.posIndex_lt {cfg : Config} {r : PanelRegs} {x y : Nat} (hp : BeforeCorner r x y)
    (hr : RectInside cfg r) : posIndex cfg x y < cfg.npix := by
  obtain ⟨xs, xe, ys, ye, hxs, hxe, hys, hye, hx, hy⟩ := hp
  exact Machine.posIndex_lt (hx.trans_lt (hr.1 xs xe hxs hxe).2) (hy.trans_lt (hr.2 ys ye hys hye).2)

/-- From a position up to the far corner the pointer moves to another one or past the end: along the row, or to the
row's first column, which the rectangle puts up to the last. -/
theorem BeforeCorner.nextPtr {cfg : Config} {r : PanelRegs} {xs xe ye : Word16} {x y x' y' : Nat}
    (hp : BeforeCorner r x y) (hr : RectInside cfg r) (hxs : r.xs = some xs) (hxe : r.xe = some xe)
    (hye : r.ye = some ye) (hn : nextPtr xs.toNat xe.toNat ye.toNat x y = .pos x' y') : BeforeCorner r x' y' := by
  obtain ⟨-, -, ys, ye', -, -, hys, hye', -, hy⟩ := hp
  obtain rfl : ye' = ye := Option.some.inj (hye'.symm.trans hye)
  refine ⟨xs, xe, ys, ye', hxs, hxe, hys, hye, ?_⟩
  unfold Machine.nextPtr at hn
  split at hn
  · cases hn
    exact ⟨by omega, hy⟩
  · split at hn <;> cases hn
    exact ⟨(hr.1 xs xe hxs hxe).1, by omega⟩

/-! ### The receiver's fields -/

/-- What the memory invariant says of the receiver's fields. -/
def RegsLegal (cfg : Config) (r : PanelRegs) : Prop := r.gram.wf ∧ r.gram.below cfg.npix ∧ WindowInv cfg r

theorem regsLegal_resetRegs (cfg : Config) (t : Nat) : RegsLegal cfg (resetRegs cfg t) :=
  ⟨.nil, nofun, windowInv_of_no_ptr ⟨nofun, nofun⟩ rfl⟩

theorem RegsLegal.takeCommand {cfg : Config} {now : Nat} {c : Byte} {r r' : PanelRegs} (h : RegsLegal cfg r)
    (ht : takeCommand cfg now c r = some r') : RegsLegal cfg r' := by
  obtain ⟨hwf, hbelow, hwin⟩ := h
  obtain ⟨hgram, -⟩ := takeCommand_gram ht
  exact ⟨hgram ▸ hwf, hgram ▸ hbelow, windowInv_takeCommand hwin ht⟩

/-- A data byte keeps them legal: an address-set frame, without a pointer, sets a checked rectangle, and memory-write
writes where the pointer stands and moves it within the rectangle. -/
theorem RegsLegal.takeData {cfg : Config} {d : Byte} {r r' : PanelRegs} (h : RegsLegal cfg r)
    (ht : takeData cfg d r = some r') : RegsLegal cfg r' := by
  obtain ⟨hwf, hbelow, hwin⟩ := h
  obtain ⟨hr, hset, hpos⟩ := windowInv_iff.mp hwin
  rcases takeData_cases ht with ⟨-, -, rfl⟩ | ⟨-, -, rfl⟩ | ⟨hc, hd⟩ | ⟨hc, hd⟩ | ⟨hc, hd⟩
  · exact ⟨hwf, hbelow, hwin⟩
  · exact ⟨hwf, hbelow, hwin⟩
  · rcases dataColAddrSet_cases hd with ⟨-, rfl⟩ | ⟨d0, d1, d2, -, -, hle, hlt, rfl⟩
    · exact ⟨hwf, hbelow, hwin⟩
    · exact ⟨hwf, hbelow, windowInv_of_no_ptr (hr.columns hle hlt) (hset (.inl hc))⟩
  · rcases dataRowAddrSet_cases hd with ⟨-, rfl⟩ | ⟨d0, d1, d2, -, -, hle, hlt, rfl⟩
    · exact ⟨hwf, hbelow, hwin⟩
    · exact ⟨hwf, hbelow, windowInv_of_no_ptr (hr.rows hle hlt) (hset (.inr hc))⟩
  · rcases dataMemWrite_cases hd with ⟨-, ⟨-, rfl⟩ | ⟨hi, x, y, xs, xe, ye, -, hp, hxs, hxe, hye, rfl⟩⟩
    · exact ⟨hwf, hbelow, hwin⟩
    · have hxy : BeforeCorner r x y := hpos x y hp
      exact ⟨Memory.set_wf hwf _ _, Memory.set_below hbelow (hxy.posIndex_lt hr) _,
        windowInv_of_memWrite hr hc fun _ _ hn => hxy.nextPtr hr hxs hxe hye hn⟩

/-! ### The panel -/

/-- What the memory invariant says of the panel: what is known of the receiver is legal. -/
def PanelLegal (cfg : Config) (p : Panel) : Prop := ∀ r, p.regs = some r → RegsLegal cfg r

theorem panelLegal_undefined (cfg : Config) (low : Option Nat) : PanelLegal cfg ⟨low, none⟩ :=
  fun _ h => absurd h (by simp)

/-- The panel stays legal when its fields, if known, go through a change that keeps them so. -/
theorem PanelLegal.bind {cfg : Config} {p : Panel} {f : PanelRegs → Option PanelRegs} (h : PanelLegal cfg p)
    (hf : ∀ r r', RegsLegal cfg r → f r = some r' → RegsLegal cfg r') :
    PanelLegal cfg { p with regs := p.regs.bind f } := by
  intro r' hr'
  obtain ⟨r, hr, ht⟩ := Option.bind_eq_some_iff.mp hr'
  exact hf r r' (h r hr) ht

theorem PanelLegal.command {cfg : Config} {p : Panel} (h : PanelLegal cfg p) (now : Nat) (c : Byte) :
    PanelLegal cfg (panelCommand cfg now c p) :=
  h.bind fun _ _ => RegsLegal.takeCommand

theorem PanelLegal.data {cfg : Config} {p : Panel} (h : PanelLegal cfg p) (ds : List Byte) :
    PanelLegal cfg (panelData cfg ds p) := by
  induction ds generalizing p with
  | nil => exact h
  | cons d ds ih =>
    have hd : PanelLegal cfg { p with regs := p.regs.bind (takeData cfg d) } := h.bind fun _ _ => RegsLegal.takeData
    exact ih hd

theorem PanelLegal.commands {cfg : Config} {p : Panel} (h : PanelLegal cfg p) (now : Nat) (cs : List Byte) :
    PanelLegal cfg (cs.foldl (fun p c => panelCommand cfg now c p) p) := by
  induction cs generalizing p with
  | nil => exact h
  | cons c cs ih => exact ih (h.command now c)

theorem PanelLegal.hear {cfg : Config} {p : Panel} (h : PanelLegal cfg p) (now : Nat) (dc : PinState) (bs : List Byte) :
    PanelLegal cfg (panelHear cfg now dc bs p) := by
  unfold panelHear
  split
  · exact h.commands now bs
  · exact h.data bs
  · split
    · exact h
    · exact panelLegal_undefined cfg _

theorem PanelLegal.reset {cfg : Config} {p : Panel} (h : PanelLegal cfg p) (now : Nat) (lvl : Level) :
    PanelLegal cfg (panelReset cfg now lvl p) := by
  unfold panelReset
  split
  · exact h
  · exact h
  · exact h
  · split
    · intro r hr
      cases hr
      exact regsLegal_resetRegs cfg now
    · exact panelLegal_undefined cfg _

theorem PanelLegal.see {cfg : Config} {p : Panel} (h : PanelLegal cfg p) (now : Nat) (dc : PinState) (e : Event) :
    PanelLegal cfg (panelSee cfg now dc e p) := by
  cases e with
  | xfer bs => exact h.hear now dc bs
  | pin sig lvl =>
    cases sig with
    | reset => exact h.reset now lvl
    | dc | backlight => exact h
  | wait _ | pinOut _ | spiOpen _ _ | spiClk _ | spiMode _ => exact h

/-! ### The memory invariant -/

theorem memInv_iff (s : State) : MemInv s ↔
    s.canvas.wf ∧ s.canvas.below s.cfg.npix ∧ s.watcher.bindings.wf ∧ PanelLegal s.cfg s.panel := Iff.rfl

/-- A change that leaves the configuration, the canvas and the Input Watcher alone keeps the invariant if it keeps the
panel legal. -/
theorem memInv_of_panel {s t : State} (h : MemInv s) (hcfg : t.cfg = s.cfg) (hcanvas : t.canvas = s.canvas)
    (hwatcher : t.watcher = s.watcher) (hp : PanelLegal s.cfg s.panel → PanelLegal s.cfg t.panel) : MemInv t := by
  obtain ⟨hwf, hbelow, hbind, hpanel⟩ := (memInv_iff s).mp h
  rw [memInv_iff, hcfg, hcanvas, hwatcher]
  exact ⟨hwf, hbelow, hbind, hp hpanel⟩

/-- A change of the bindings alone. -/
theorem memInv_of_bindings {s t : State} (h : MemInv s) (hcfg : t.cfg = s.cfg) (hcanvas : t.canvas = s.canvas)
    (hpanel : t.panel = s.panel) (hb : s.watcher.bindings.wf → t.watcher.bindings.wf) : MemInv t := by
  obtain ⟨hwf, hbelow, hbind, hp⟩ := (memInv_iff s).mp h
  rw [memInv_iff, hcfg, hcanvas, hpanel]
  exact ⟨hwf, hbelow, hb hbind, hp⟩

theorem memInv_happen {s : State} (h : MemInv s) (it : Item) : MemInv (happen it s) := by
  obtain ⟨hcfg, -, -, -, -, -, -, -, hcanvas, -, -, -, hpanel, -, hwatcher, -⟩ := happen_fields it s
  refine memInv_of_panel h hcfg hcanvas hwatcher fun hp => ?_
  rw [hpanel]
  exact hp.see _ _ _

/-- A failing entry reaches the panel only with what it sent. -/
theorem memInv_fail {s u : State} {it : Item} (h : MemInv s) (hu : CutOff it s u) :
    MemInv (endOp .transport (applyEdits it.onFail u)) := by
  rcases hu with rfl | rfl | ⟨bs, k, -, rfl⟩
  · exact h
  · exact h
  · exact memInv_of_panel h rfl rfl rfl fun hp => hp.see _ _ _

theorem onCanvas_posIndex_lt {cfg : Config} {x y : Int} (h : onCanvas cfg x y = true) :
    posIndex cfg x.toNat y.toNat < cfg.npix := by
  obtain ⟨hx0, hx, hy0, hy⟩ := of_decide_eq_true h
  exact posIndex_lt (by omega) (by omega)

/-- The canvas an operation asks for is legal: CLEAR fills the rectangle, DRAW writes a checked position of it. -/
theorem askOf_canvas_legal {i : Instr} {a : Ask} {s : State} (h : MemInv s) (ha : askOf i s = some a)
    (hi : a.illegal = false) : a.canvas.wf ∧ a.canvas.below s.cfg.npix := by
  obtain ⟨hwf, hbelow, -⟩ := h
  cases i
  case clear c =>
    cases ha
    exact ⟨Memory.fill_wf _ c, Memory.fill_below _ c⟩
  case draw x y c =>
    cases ha
    have hxy : onCanvas s.cfg x y = true := by simpa [askDraw] using hi
    exact ⟨Memory.set_wf hwf _ _, Memory.set_below hbelow (onCanvas_posIndex_lt hxy) _⟩
  all_goals
    rw [askOf_canvas (by simp) (by simp) ha]
    exact ⟨hwf, hbelow⟩

theorem memInv_latch {i : Instr} {a : Ask} {s : State} (h : MemInv s) (ha : askOf i s = some a)
    (hi : a.illegal = false) : MemInv (latch a s) := by
  obtain ⟨hwf, hbelow⟩ := askOf_canvas_legal h ha hi
  obtain ⟨-, -, hbind, hp⟩ := h
  exact ⟨hwf, hbelow, hbind, hp⟩

theorem memInv_keptOps : KeptOps MemInv where
  race _ h := h
  configuration _ _ h := h
  latch _ _ _ ha hi _ _ h := memInv_latch h ha hi
  tick _ h := tick_keeps h (fun _ it _ _ _ => memInv_happen h it) (fun _ _ _ _ _ hu => memInv_fail h hu) h

theorem memInv_arriveFrame {c : Byte} {data : List Byte} {s t : State} (ht : arriveFrame c data s = .next t)
    (h : MemInv s) : MemInv t := by
  unfold arriveFrame at ht
  split at ht <;> cases ht
  exact memInv_of_panel h rfl rfl rfl fun hp => (hp.command _ c).data data

theorem memInv_arriveData {data : List Byte} {s t : State} (ht : arriveData data s = .next t) (h : MemInv s) :
    MemInv t := by
  unfold arriveData at ht
  split at ht <;> cases ht
  exact memInv_of_panel h rfl rfl rfl fun hp => hp.data data

theorem memInv_kept : Kept MemInv where
  toKeptOps := memInv_keptOps
  frame _ _ _ _ := memInv_arriveFrame
  data _ _ _ := memInv_arriveData

theorem memInv_registerPin (cb : List HostPort) (pin : Nat) {s : State} (h : MemInv s) :
    MemInv (registerPin cb pin s) := by
  refine memInv_of_bindings h rfl rfl rfl fun hb => ?_
  unfold registerPin
  split
  · exact Memory.set_wf hb pin cb
  · exact hb

theorem memInv_clearPin (pin : Nat) {s : State} (h : MemInv s) : MemInv (clearPin pin s) :=
  memInv_of_bindings h rfl rfl rfl fun hb => Memory.erase_wf hb pin

/-- Settles O45: every event and every byte at the panel keeps the receiver legal, every operation asks for a legal
canvas, and the Input Watcher keeps the bindings in order. -/
theorem memoriesKept : Obligations.MemoriesKept :=
  fun _ _ hs h => memInv_kept.step (fun _ _ h => h) (fun _ _ h => h) (fun _ _ _ h => h)
    (fun cb pin _ => memInv_registerPin cb pin) (fun pin _ => memInv_clearPin pin) h hs

end Sys2Proof.Machine
end

section
/-! PROOFS, 30_encoding.md. Decoder and encoder of the four formats (R70 to R76, R84): each undoes the other. -/

namespace Sys2Proof

/-! ### The codes of the opcode table -/

/-- Settles O2: the decoder computes on the eight numbers. -/
theorem tableCodesDecode : Obligations.TableCodesDecode := by
  unfold Obligations.TableCodesDecode
  decide

/-! ### What was encoded is read back -/

/-- The bounds of a well-formed window each fit their port, and the port carries them unchanged (R84). -/
theorem decode_encode_setAddressWindow {x0 y0 x1 y1 : Int}
    (h : (Instr.setAddressWindow x0 y0 x1 y1).wellFormed = true) :
    decode (encode (.setAddressWindow x0 y0 x1 y1)) = .ok (.setAddressWindow x0 y0 x1 y1) := by
  obtain ⟨⟨⟨hx0, hy0⟩, hx1⟩, hy1⟩ : ((portInt x0 ∧ portInt y0) ∧ portInt x1) ∧ portInt y1 := by
    simpa [Instr.wellFormed] using h
  calc decode (encode (.setAddressWindow x0 y0 x1 y1))
      = .ok (.setAddressWindow (BitVec.ofInt 16 x0).toInt (BitVec.ofInt 16 y0).toInt (BitVec.ofInt 16 x1).toInt
          (BitVec.ofInt 16 y1).toInt) := rfl
    _ = _ := by rw [toInt_port hx0, toInt_port hy0, toInt_port hx1, toInt_port hy1]

/-- A well-formed position fits its ports, and the colour is what its port carries (R84). -/
theorem decode_encode_draw {x y : Int} {c : Colour} (h : (Instr.draw x y c).wellFormed = true) :
    decode (encode (.draw x y c)) = .ok (.draw x y c) := by
  obtain ⟨hx, hy⟩ : portInt x ∧ portInt y := by simpa [Instr.wellFormed] using h
  calc decode (encode (.draw x y c))
      = .ok (.draw (BitVec.ofInt 16 x).toInt (BitVec.ofInt 16 y).toInt (Colour.ofBits c.toBits)) := rfl
    _ = _ := by rw [toInt_port hx, toInt_port hy, Colour.ofBits_toBits]

theorem decode_encode_clear (c : Colour) : decode (encode (.clear c)) = .ok (.clear c) :=
  congrArg (Except.ok ∘ Instr.clear) (Colour.ofBits_toBits c)

/-- The selects 0xC to 0xF keep their two low bits (R85). -/
theorem decode_encode_reserved0xC0xF (low : BitVec 2) :
    decode (encode (.reserved0xC0xF low)) = .ok (.reserved0xC0xF low) := by
  revert low
  decide

theorem decode_encode_pixel (v : Word16) : decode (encode (.pixel v)) = .ok (.pixel v) :=
  congrArg (Except.ok ∘ Instr.pixel) (word16_split v)

theorem decode_encode_window (s e : Word16) : decode (encode (.window s e)) = .ok (.window s e) := by
  calc decode (encode (.window s e))
      = .ok (.window (word16 (hiByte s) (loByte s)) (word16 (hiByte e) (loByte e))) := rfl
    _ = _ := by rw [word16_split, word16_split]

/-- Settles O3: row by row; the rows left at the end have no operand, or one that is carried as it is. -/
theorem decodeEncodeRoundTrip : Obligations.DecodeEncodeRoundTrip := by
  intro i hi
  cases i
  case setAddressWindow => exact decode_encode_setAddressWindow hi
  case draw => exact decode_encode_draw hi
  case clear c => exact decode_encode_clear c
  case reserved0xC0xF low => exact decode_encode_reserved0xC0xF low
  case pixel v => exact decode_encode_pixel v
  case window s e => exact decode_encode_window s e
  all_goals rfl

/-! ### What was decoded is written back -/

theorem eq_ofNat_of_toNat {c : Byte} {n : Nat} (h : c.toNat = n) : c = BitVec.ofNat 8 n := by
  rw [← h, BitVec.ofNat_toNat, BitVec.setWidth_eq]

/-- A frame's command byte is all opcode, so the instruction read from it gives it back (R71, R73). -/
theorem encode_of_decodeFrame {c : Byte} {data : List Byte} {i : Instr} (h : decodeFrame c data = .ok i) :
    encode i = .wire (c :: data) := by
  unfold decodeFrame at h
  split at h
  case h_8 => cases h -- a foreign command byte
  all_goals
    rename_i hc
    obtain rfl := eq_ofNat_of_toNat hc
    cases h
    rfl

/-- The host's ports name host operations only (R84, R85). -/
theorem isHostop_decodeHostop (p : HostPort) : Safety.isHostop (decodeHostop p) = true := by
  unfold decodeHostop
  split <;> rfl

/-- Settles O4: branch by branch of the decoder; the bytes of a word are the bytes it was made of. -/
theorem encodeDecodeRoundTrip : Obligations.EncodeDecodeRoundTrip := by
  intro r i h hwire
  unfold decode at h
  split at h
  case h_1 p =>
    cases h
    rw [isHostop_decodeHostop] at hwire
    cases hwire
  case h_3 => exact encode_of_decodeFrame h
  case h_4 hi lo =>
    cases h
    exact congrArg Request.pixel (bytes16_word16 hi lo)
  case h_6 s1 s0 e1 e0 =>
    cases h
    exact congrArg Request.window (congrArg₂ List.append (bytes16_word16 s1 s0) (bytes16_word16 e1 e0))
  all_goals cases h -- an empty frame, or data of another length

end Sys2Proof
end

section
/-! PROOFS, 30_encoding.md R74, 42_pixel_encoder.md R135. The pixel word as its three fields, and its two bytes. -/

namespace Sys2Proof.Machine

/-- `v = {r[7:3], g[7:2], b[7:3]}` (R74). -/
theorem pack565_eq_append (c : Colour) :
    pack565 c = c.r.extractLsb' 3 5 ++ c.g.extractLsb' 2 6 ++ c.b.extractLsb' 3 5 := by
  obtain ⟨r, g, b⟩ := c
  refine BitVec.eq_of_getLsbD_eq fun i hi => ?_
  simp only [pack565, BitVec.getLsbD_append, BitVec.getLsbD_extractLsb']
  interval_cases i <;> simp

theorem hiByte_pack565 (c : Colour) : hiByte (pack565 c) = (c.r &&& 0xF8#8) ||| (c.g >>> 5) := by
  rw [pack565_eq_append, hiByte]
  refine BitVec.eq_of_getLsbD_eq fun i hi => ?_
  simp only [BitVec.getLsbD_append, BitVec.getLsbD_extractLsb']
  interval_cases i <;> simp

theorem loByte_pack565 (c : Colour) : loByte (pack565 c) = ((c.g &&& 0x1C#8) <<< 3) ||| (c.b >>> 3) := by
  rw [pack565_eq_append, loByte]
  refine BitVec.eq_of_getLsbD_eq fun i hi => ?_
  simp only [BitVec.getLsbD_append, BitVec.getLsbD_extractLsb']
  interval_cases i <;> simp

/-- Settles O5: the fields are the pieces the word is put together from. -/
theorem pixelWordFields : Obligations.PixelWordFields := by
  intro c
  refine ⟨?_, by rw [bytes16, hiByte_pack565, loByte_pack565]⟩
  rw [pack565_eq_append]
  refine ⟨?_, ?_, ?_⟩
  · exact (BitVec.extractLsb'_append_eq_of_le (by decide)).trans BitVec.extractLsb'_append_eq_left
  · exact (BitVec.extractLsb'_append_eq_of_le (by decide)).trans BitVec.extractLsb'_append_eq_right
  · exact BitVec.extractLsb'_append_eq_right

end Sys2Proof.Machine
end

section
/-! PROOFS, 30_encoding.md R84, R85. The step runs what is decoded, and the reserved selects. -/

namespace Sys2Proof.Machine

open Sys2Proof.Safety

/-! ### The step -/

/-- An idle block serves what is presented first, whatever moves are to come. -/
theorem step_presented {s : State} {r : Request} {rest : List Request} (hs : Idle s) (hp : s.presented = r :: rest) :
    step s = serve r (takePresented rest s) := by
  obtain ⟨hr, hb⟩ := hs
  simp [step, advance, hr, hb, hp]

/-- With nothing presented the next move is made. -/
theorem step_move {s : State} {m : Move} {rest : List Move} (hr : s.race = false) (hp : s.presented = [])
    (hi : s.inputs = m :: rest) : step s = doMove m rest s := by
  simp [step, advance, hr, hp, hi]

/-- While an operation runs, what is presented waits. -/
theorem step_presented_waits {s : State} (hr : s.race = false) (hb : s.busy = true) (hp : s.presented ≠ []) :
    step s = .next (tick s) := by
  obtain ⟨r, rest, hp⟩ := List.exists_cons_of_ne_nil hp
  simp [step, advance, hr, hb, hp]

/-- Settles O10: the step serves what is presented, or makes the call, and either waits on `busy`. -/
theorem stepRunsTheInstruction : Obligations.StepRunsTheInstruction := by
  refine ⟨fun s r rest i hs hp hd _ => ?_, fun s p rest i hs hp hi hd => ?_, fun s hr hb h => ?_⟩
  · rw [step_presented hs hp, serve, hd]
    rfl
  · obtain ⟨hr, hb⟩ := hs
    cases hd
    simp [step_move hr hp hi, doMove, hb, consume]
  · by_cases hp : s.presented = []
    · obtain ⟨p, rest, hi⟩ := h.resolve_left (not_not_intro hp)
      simp [step_move hr hp hi, doMove, hb]
    · exact step_presented_waits hr hb hp

/-! ### The reserved selects -/

theorem decodeHostop_reserved {p : HostPort} (h : 0xB ≤ p.opSel.toNat) :
    decodeHostop p = .reserved0xB ∨ ∃ low, decodeHostop p = .reserved0xC0xF low := by
  unfold decodeHostop
  split
  case h_12 => exact .inl rfl
  case h_13 => exact .inr ⟨_, rfl⟩
  all_goals omega

/-- Where nothing runs there is nothing to end: only `err` changes. -/
theorem endOp_idle {s : State} (hb : s.busy = false) (hq : SeqInv s) (e : ErrClass) : endOp e s = { s with err := e } := by
  obtain ⟨ho, hn⟩ := hq.1 hb
  rw [endOp, ← hb, ← ho, ← hn]

/-- Settles O26: a reserved row asks for an operation that is never legal. -/
theorem reservedSelects : Obligations.ReservedSelects := by
  refine ⟨fun p hp => ?_, rfl, fun s hs hq => ?_⟩
  · exact (decodeHostop_reserved hp).imp (congrArg Except.ok) fun ⟨low, h⟩ => ⟨low, congrArg Except.ok h⟩
  · rw [← endOp_idle hs.2 hq]
    exact ⟨perform_illegal hs.1 hs.2 rfl, fun _ => perform_illegal hs.1 hs.2 rfl⟩

end Sys2Proof.Machine
end

section
/-! PROOFS, 40_bus_transport.md R102. The transfers of a payload as slices of it, and the chunk law. -/

namespace Sys2Proof.Machine

/-- Piece number `k` starts after `k` full pieces and is full unless the payload ends in it. -/
theorem getElem?_piecesOf (c fuel : Nat) (bs : List Byte) (h : bs.length ≤ fuel) (k : Nat) :
    (piecesOf c fuel bs)[k]? =
      if k * (c + 1) < bs.length then some ((bs.drop (k * (c + 1))).take (c + 1)) else none := by
  induction fuel generalizing bs k with
  | zero =>
    obtain rfl : bs = [] := List.length_eq_zero_iff.mp (by omega)
    simp [piecesOf]
  | succ fuel ih =>
    cases bs with
    | nil => simp [piecesOf]
    | cons b rest =>
      cases k with
      | zero => simp [piecesOf]
      | succ k =>
        rw [List.length_cons] at h
        have hstart : (k + 1) * (c + 1) = c + k * (c + 1) + 1 := by ring
        have hlt : c + k * (c + 1) + 1 < rest.length + 1 ↔ k * (c + 1) < rest.length - c := by omega
        rw [piecesOf, List.getElem?_cons_succ, ih _ (by rw [List.length_drop]; omega), hstart]
        simp only [List.length_drop, List.drop_drop, List.length_cons, List.drop_succ_cons, hlt]

section
variable {cfg : Config} (hc : 1 ≤ cfg.chunkBytes) (bs : List Byte)
include hc

/-- Transfer number `k` is the slice of the payload that starts at `k × CHUNK_BYTES` (R101). -/
theorem getElem?_chunks (k : Nat) :
    (chunks cfg bs)[k]? = if k * cfg.chunkBytes < bs.length
      then some ((bs.drop (k * cfg.chunkBytes)).take cfg.chunkBytes) else none := by
  rw [chunks, getElem?_piecesOf _ _ _ le_rfl, Nat.sub_add_cancel hc]

/-- There is a transfer number `k` exactly if the payload reaches beyond `k` full chunks. -/
theorem lt_length_chunks (k : Nat) : k < (chunks cfg bs).length ↔ k * cfg.chunkBytes < bs.length := by
  rw [← not_le, ← List.getElem?_eq_none_iff, getElem?_chunks hc]
  split <;> simp [*]

theorem length_of_getElem?_chunks {k : Nat} {t : List Byte} (ht : (chunks cfg bs)[k]? = some t) :
    t.length = min cfg.chunkBytes (bs.length - k * cfg.chunkBytes) := by
  rw [getElem?_chunks hc] at ht
  split at ht <;> cases ht
  rw [List.length_take, List.length_drop]

theorem length_chunks : (chunks cfg bs).length = (bs.length + cfg.chunkBytes - 1) / cfg.chunkBytes := by
  refine eq_of_forall_lt_iff fun k => ?_
  rw [lt_length_chunks hc, ← not_le (b := k), ← not_le, ← Nat.ceilDiv_eq_add_pred_div, ceilDiv_le_iff_le_mul hc,
    mul_comm]

end

/-- Settles O9: the lengths are those of the slices, and the events are those of the list WRITE_DATA_BYTES asks for. -/
theorem chunkLaw : Obligations.ChunkLaw := by
  intro cfg bs hc
  refine ⟨chunks_flatten cfg bs, length_chunks hc bs, fun k t hk ht => ?_, fun t ht => ?_, fun s hs => ?_⟩
  · have hnext := (lt_length_chunks hc bs (k + 1)).mp hk
    rw [Nat.succ_mul] at hnext
    rw [length_of_getElem?_chunks hc bs ht]
    omega
  · rw [List.getLast?_eq_getElem?] at ht
    have hlast := (lt_length_chunks hc bs _).mp (List.getElem?_eq_some_iff.mp ht).1
    have hend := mt (lt_length_chunks hc bs (chunks cfg bs).length).mpr (lt_irrefl _)
    have hlen := length_of_getElem?_chunks hc bs ht
    rw [Nat.sub_one_mul] at hlast hlen ⊢
    omega
  · subst hs
    exact events_payload _ _ _ _

end Sys2Proof.Machine
end

section
/-! PROOFS, 40_bus_transport.md R100 to R105. Operations that only send bytes: what completes, and what the direct
command byte and the direct payload do to the shadow and the receiver. -/

namespace Sys2Proof.Machine

open Sys2Proof.Safety

/-! ### An operation that sends its events -/

theorem listTransfers_eq_xferCount (items : List Item) : listTransfers items = xferCount (items.map Item.event) := by
  induction items with
  | nil => rfl
  | cons it is ih =>
    obtain ⟨ev, ok, bad⟩ := it
    rw [listTransfers_cons, ih]
    cases ev <;> simp [itemTransfers, xferCount, Nat.add_comm]

/-- A legal operation whose transfers complete and that makes no configuration call sends its whole event list. -/
theorem perform_sendsAll {i : Instr} {a : Ask} {s : State} (hs : Idle s) (hlegal : a.illegal = false)
    (hstop : a.stop = none) (hevents : a.items.map Item.event = eventsOf i s) (hcalls : listCalls a.items = 0)
    (ht : TransfersComplete s (xferCount (eventsOf i s))) (hkept : BlockKept s (play a.items (latch a s))) :
    perform a s = .next (complete (play a.items (latch a s))) ∧
    SentAll i s (complete (play a.items (latch a s))) := by
  rw [← hevents, ← listTransfers_eq_xferCount] at ht
  obtain ⟨hrace, hbusy⟩ := hs
  obtain ⟨-, -, -, -, -, -, -, -, -, -, htrace, -⟩ := play_fields a.items (latch a s)
  refine ⟨perform_completes hrace hbusy hlegal hstop ht (by simp [hcalls]), ?_, hkept, ⟨rfl, rfl, rfl, rfl⟩, ?_⟩
  · rw [← hevents]
    exact htrace
  · exact (Nat.le_add_right _ _).trans (play_now a.items (latch a s))

/-- On an open bus an operation that asks for events alone keeps the rest of the block. -/
theorem blockKept_play_latch {a : Ask} {s : State} (hb : s.busOpen = true) (hc : a.canvas = s.canvas)
    (he : a.encOut = s.encOut) (items : List Item) : BlockKept s (play items (latch a s)) :=
  blockKept_trans (blockKept_latch hc he) (blockKept_play items hb)

/-! ### A direct command byte -/

/-- The records of a sent command byte make R43's shadow. -/
theorem foldl_directEdits_sent (b : Byte) (sh : Shadow) :
    (Edit.ramwr (b == 0x2C#8) :: directEdits b).foldl editShadow sh = directShadow b sh := by
  unfold directEdits
  split
  case h_8 => -- a byte R43 does not name
    simp_all [directShadow, editShadow, ← BitVec.toNat_inj]
  all_goals
    rename_i h
    obtain ⟨-, rfl⟩ := BitVec.toNat_eq_nat.mp h
    rfl

theorem foldl_directEdits_ramwr (b : Byte) (sh : Shadow) : ((directEdits b).foldl editShadow sh).ramwr = sh.ramwr := by
  unfold directEdits
  split <;> rfl

/-- Settles O11: the sent byte's records are R43's, and a command byte writes no pixel. -/
theorem writeCommandByteSends : Obligations.WriteCommandByteSends := by
  intro s b hs hb ht
  obtain ⟨hexec, hsent⟩ := perform_sendsAll (i := .writeCommandByte b) (a := askWriteCommandByte b s) hs rfl
    (needsBus_eq_none.mpr hb) rfl rfl ht (blockKept_play_latch hb rfl rfl _)
  obtain ⟨hpanel, hpins, -⟩ := play_command b (directEdits b) (directEdits b) (latch (askWriteCommandByte b s) s)
  refine ⟨_, hexec, hsent, hpins, foldl_directEdits_sent b s.shadow, hpanel, fun r' hr' => ?_⟩
  obtain ⟨r, hr, hgram⟩ := panelCommand_gram (hpanel ▸ hr')
  exact ⟨r, hr, fun i => by rw [hgram]⟩

/-- The records of a command byte's failure, made after its DC event and after what was delivered of it. -/
theorem writeCommandByte_fails {s : State} {b : Byte} {k : Nat} (hs : Idle s) (hb : s.busOpen = true)
    (hf : transferAnswer s.world 0 = .fail k) :
    exec (.writeCommandByte b) s = .next (failTransfer
      ⟨.xfer [b], .ramwr (b == 0x2C#8) :: directEdits b, directEdits b⟩ ([b].take k)
      (takeTransferAnswer (happen (pinItem .dc .low) (latch (askWriteCommandByte b s) s)))) :=
  (perform_runs hs.1 hs.2 rfl (needsBus_eq_none.mpr hb)).trans
    (congrArg _ (runItems_fails_at (n := 1) rfl rfl (fun _ h => absurd h (Nat.not_lt_zero _)) rfl hf))

/-- Settles O32: nothing was delivered, or the whole byte was, and it reaches the receiver under the low DC line. -/
theorem commandByteFails : Obligations.CommandByteFails := by
  intro s b k hs hb hf
  have hexec := writeCommandByte_fails (b := b) hs hb hf
  have hramwr := foldl_directEdits_ramwr b s.shadow
  have hkept : ∀ it sent, BlockKept s (failTransfer it sent
      (takeTransferAnswer (happen (pinItem .dc .low) (latch (askWriteCommandByte b s) s)))) := fun it sent =>
    blockKept_trans (blockKept_play_latch hb rfl rfl [pinItem .dc .low])
      (blockKept_failTransfer it sent (by simp [hb]))
  cases k with
  | zero => exact ⟨_, hexec, (List.append_nil _).symm, rfl, hramwr, ⟨rfl, rfl, rfl, rfl⟩, hkept _ _, rfl⟩
  | succ k =>
    rw [List.take_succ_cons, List.take_nil] at hexec
    exact ⟨_, hexec, rfl, rfl, hramwr, ⟨rfl, rfl, rfl, rfl⟩, hkept _ _, rfl⟩

/-! ### A direct payload -/

theorem chunks_eq_nil {cfg : Config} {bs : List Byte} : chunks cfg bs = [] ↔ bs = [] :=
  ⟨fun h => by simpa [h] using (chunks_flatten cfg bs).symm, fun h => h ▸ chunks_nil cfg⟩

theorem play_transfers_shadow (ok bad : List Edit) (ts : List (List Byte)) (s : State) :
    (play (transferItems ok bad ts) s).shadow = if ts = [] then s.shadow else ok.foldl editShadow s.shadow := by
  induction ts generalizing s with
  | nil => rfl
  | cons t ts ih =>
    cases ts with
    | nil => rfl
    | cons u us => exact ih (happen ⟨.xfer t, [], bad⟩ s)

/-- A payload makes its records when its last transfer has succeeded, and none if it is empty (R27, R105). -/
theorem play_payload_shadow (cfg : Config) (bs : List Byte) (ok bad : List Edit) (s : State) :
    (play (payloadItems cfg bs ok bad) s).shadow = if bs = [] then s.shadow else ok.foldl editShadow s.shadow := by
  have h := play_transfers_shadow ok bad (chunks cfg bs) (happen (pinItem .dc .high) s)
  simp only [chunks_eq_nil] at h
  exact h

/-- Settles O12: the receiver takes the chunks as the payload they join to, and there are no records. -/
theorem writeDataBytesSends : Obligations.WriteDataBytesSends := by
  refine ⟨fun s bs hs hb ht => ?_, fun _ => rfl⟩
  obtain ⟨hexec, hsent⟩ := perform_sendsAll (i := .writeDataBytes bs) (a := askWriteDataBytes bs s) hs rfl
    (needsBus_eq_none.mpr hb) (events_payload _ _ _ _) (listCalls_payload _ _ _ _) ht
    (blockKept_play_latch hb rfl rfl _)
  obtain ⟨hpanel, hpins, -⟩ := play_payload s.cfg bs [] [] (latch (askWriteDataBytes bs s) s)
  have hshadow := play_payload_shadow s.cfg bs [] [] (latch (askWriteDataBytes bs s) s)
  exact ⟨_, hexec, hsent, hpins, hshadow.trans (ite_self _), hpanel⟩

end Sys2Proof.Machine
end

section
/-! PROOFS, 41_panel_controller.md R115, R116. The operands of SET_ADDRESS_WINDOW: the bytes they make,
and the check. -/

namespace Sys2Proof.Machine

open Sys2Proof.Safety

/-! ### Coordinates as fields -/

/-- The field of a checked coordinate is its two's-complement port value (R79, 10_state.md R41). -/
theorem coordField_eq_ofInt {v : Int} (h : 0 ≤ v) : coordField v = BitVec.ofInt 16 v := by
  obtain ⟨n, rfl⟩ := Int.eq_ofNat_of_zero_le h
  exact (BitVec.ofInt_natCast 16 n).symm

/-- The last coordinate of an axis with `n` positions. -/
theorem coordField_last (n : Nat) : coordField ((n : Int) - 1) = BitVec.ofNat 16 (n - 1) := by
  rw [coordField, show ((n : Int) - 1).toNat = n - 1 by omega]

theorem windowBytes_zero (e : Word16) : windowBytes 0 e = [0x00#8, 0x00#8, hiByte e, loByte e] := rfl

theorem columnBytes_fullWindow (cfg : Config) : columnBytes (fullWindow cfg) =
    [0x00#8, 0x00#8, hiByte (BitVec.ofNat 16 (cfg.width - 1)), loByte (BitVec.ofNat 16 (cfg.width - 1))] := by
  rw [← windowBytes_zero, ← coordField_last]
  rfl

theorem rowBytes_fullWindow (cfg : Config) : rowBytes (fullWindow cfg) =
    [0x00#8, 0x00#8, hiByte (BitVec.ofNat 16 (cfg.height - 1)), loByte (BitVec.ofNat 16 (cfg.height - 1))] := by
  rw [← windowBytes_zero, ← coordField_last]
  rfl

/-- Settles O17: the general bytes, and what they are at the default geometry of 240. -/
theorem fullFrameWindowBytes : Obligations.FullFrameWindowBytes :=
  ⟨fun cfg _ _ _ _ => ⟨columnBytes_fullWindow cfg, rowBytes_fullWindow cfg⟩,
    columnBytes_fullWindow Config.default, rowBytes_fullWindow Config.default⟩

/-! ### The bounds check -/

theorem windowInBounds_eq_false {cfg : Config} {x0 y0 x1 y1 : Int} : windowInBounds cfg ⟨x0, y0, x1, y1⟩ = false ↔
    x0 < 0 ∨ x1 < x0 ∨ x1 ≥ cfg.width ∨ y0 < 0 ∨ y1 < y0 ∨ y1 ≥ cfg.height := by
  simp only [windowInBounds, decide_eq_false_iff_not]
  omega

/-- A list that has ended has completed or taken TransportError (60_exceptions.md R185). -/
theorem runItems_err_ne_configuration {items : List Item} {s : State} (hb : s.busy = true)
    (h : (runItems items s).busy = false) : (runItems items s).err ≠ .configuration := by
  refine runItems_induct (fun t => t.busy = false → t.err ≠ .configuration) items s (by simp [hb])
    (fun it t _ ht => ?_) (fun it sent t _ _ => ?_) (fun it t _ _ => ?_) (fun t _ => ?_) h
  · simpa using ht
  · simp [failTransfer]
  · simp
  · simp

/-- An operation whose check holds never reports ConfigurationError (60_exceptions.md R186). -/
theorem perform_err_ne_configuration {a : Ask} {s t : State} (hs : Idle s) (hlegal : a.illegal = false)
    (h : perform a s = .next t) (hb : t.busy = false) : t.err ≠ .configuration := by
  cases hstop : a.stop with
  | some r => simp [perform, issue, hs.1, hs.2, hlegal, hstop] at h
  | none =>
    rw [perform_runs hs.1 hs.2 hlegal hstop] at h
    cases h
    exact runItems_err_ne_configuration rfl hb

/-- Settles O16: the check fails in exactly the six ways, before anything is latched. -/
theorem windowBoundsCheck : Obligations.WindowBoundsCheck := by
  intro s x0 y0 x1 y1 hs hq
  rw [← windowInBounds_eq_false, ← endOp_idle hs.2 hq, Bool.not_eq_false]
  exact ⟨fun hout => perform_illegal hs.1 hs.2 (by simp [askSetAddressWindow, askEvents, hout]),
    fun hin t => perform_err_ne_configuration hs (by simp [askSetAddressWindow, askEvents, hin])⟩

end Sys2Proof.Machine
end

section
/-! PROOFS, 41_panel_controller.md R110 to R117. What the operations of the Panel Controller do when their transfers
complete: the frames they send, the pixel memory they leave alone, and the reset pulse. -/

namespace Sys2Proof.Machine

open Sys2Proof.Safety

/-! ### The pixel memory over frames -/

theorem gramKept_of_panel {s t : State} (h : t.panel = s.panel) : GramKept s t :=
  fun r hr => ⟨r, h ▸ hr, fun _ => rfl⟩

theorem gramKept_trans {s t u : State} (h : GramKept s t) (h' : GramKept t u) : GramKept s u := by
  intro r'' hr''
  obtain ⟨r', hr', hg'⟩ := h' r'' hr''
  obtain ⟨r, hr, hg⟩ := h r' hr'
  exact ⟨r, hr, fun i => (hg' i).trans (hg i)⟩

/-- A command byte writes no pixel. -/
theorem gramKept_command {b : Byte} {ok bad : List Edit} {s : State} :
    GramKept s (play (commandItems b ok bad) s) := by
  obtain ⟨hpanel, -⟩ := play_command b ok bad s
  intro r' hr'
  obtain ⟨r, hr, hgram⟩ := panelCommand_gram (hpanel ▸ hr')
  exact ⟨r, hr, fun i => by rw [hgram]⟩

/-- A frame of another command than MEM_WRITE writes no pixel. -/
theorem gramKept_frame {b : Byte} (hb : b ≠ 0x2C#8) {cfg : Config} {bs : List Byte} {ok bad ok' bad' : List Edit}
    {s : State} : GramKept s (play (payloadItems cfg bs ok' bad') (play (commandItems b ok bad) s)) := by
  obtain ⟨hdata, -⟩ := play_payload cfg bs ok' bad' (play (commandItems b ok bad) s)
  obtain ⟨hcommand, -⟩ := play_command b ok bad s
  intro r' hr'
  rw [hdata, hcommand] at hr'
  obtain ⟨r, hr, hgram⟩ := panelFrame_gram hb hr'
  exact ⟨r, hr, fun i => by rw [hgram]⟩

/-! ### A command byte and its payload -/

theorem play_frame_pins (b : Byte) (cfg : Config) (bs : List Byte) (ok bad ok' bad' : List Edit) (s : State) :
    (play (payloadItems cfg bs ok' bad') (play (commandItems b ok bad) s)).pins =
      { s.pins with dc := .driven .high } := by
  obtain ⟨-, hpins, -⟩ := play_payload cfg bs ok' bad' (play (commandItems b ok bad) s)
  exact hpins

/-- The records of the byte, then those of the payload (R27). -/
theorem play_frame_shadow {bs : List Byte} (hbs : bs ≠ []) (b : Byte) (cfg : Config) (ok bad ok' bad' : List Edit)
    (s : State) : (play (payloadItems cfg bs ok' bad') (play (commandItems b ok bad) s)).shadow =
      ok'.foldl editShadow (ok.foldl editShadow { s.shadow with ramwr := b == 0x2C#8 }) := by
  rw [play_payload_shadow, if_neg hbs]
  rfl

/-! ### BEGIN_RAM_WRITE -/

/-- Settles O18: one command byte whose only record is `ramwr`. -/
theorem beginRamWriteSends : Obligations.BeginRamWriteSends := by
  intro s hs hb ht
  obtain ⟨hexec, hsent⟩ := perform_sendsAll (i := .beginRamWrite) (a := askBeginRamWrite s) hs rfl
    (needsBus_eq_none.mpr hb) rfl rfl ht (blockKept_play_latch hb rfl rfl _)
  obtain ⟨hpanel, hpins, -⟩ := play_command 0x2C#8 [] [] (latch (askBeginRamWrite s) s)
  exact ⟨_, hexec, hsent, hpins, rfl, hpanel, gramKept_command⟩

/-! ### HARD_RESET -/

@[simp] theorem listWait_nil : listWait [] = 0 := rfl
@[simp] theorem listWait_pin (sig : Signal) (lvl : Level) (items : List Item) :
    listWait (pinItem sig lvl :: items) = listWait items := by simp [listWait, pinItem, waitTime]
@[simp] theorem listWait_wait (ms : Nat) (ok : List Edit) (items : List Item) :
    listWait (waitItem ms ok :: items) = micros ms + listWait items := by simp [listWait, waitItem, waitTime]

/-- Entries that leave `bus_open` alone leave the rest of the block alone. -/
theorem blockKept_play_of_busOpen {items : List Item} {s : State} (h : (play items s).busOpen = s.busOpen) :
    BlockKept s (play items s) := by
  obtain ⟨hcfg, -, -, -, -, hrace, -, -, hcanvas, -, -, henc, hwatcher, hinputs, hpres⟩ := play_fields items s
  exact ⟨hcanvas, henc, h, hcfg, hrace, hwatcher, hinputs, hpres⟩

theorem panelReset_high_lowSince (cfg : Config) (now : Nat) (p : Panel) :
    (panelReset cfg now .high p).lowSince = none := by
  unfold panelReset
  cases h : p.lowSince with
  | none => exact h
  | some t => dsimp only; split <;> rfl

/-- A fall of a line that is not low, and a rise at least one settle time later, reset any receiver (R163). -/
theorem panelReset_pulse {cfg : Config} {fall rise : Nat} {p : Panel} (hp : p.lowSince = none)
    (h : fall + micros cfg.resetSettleMs ≤ rise) :
    panelReset cfg rise .high (panelReset cfg fall .low p) = ⟨none, some (resetRegs cfg rise)⟩ := by
  simp [panelReset, hp, h]

theorem happen_reset_panel (lvl : Level) (s : State) : (happen (pinItem .reset lvl) s).panel =
    panelReset s.cfg (happen (pinItem .reset lvl) s).now lvl s.panel := rfl
theorem happen_wait_panel (ms : Nat) (ok : List Edit) (s : State) : (happen (waitItem ms ok) s).panel = s.panel := rfl

/-- The pulse of HARD_RESET, the four events after its first delay, resets a receiver whose RESET line is not low, at
the rising edge. -/
theorem play_pulse {s : State} (hp : s.panel.lowSince = none) :
    ∃ edge, edge + micros s.cfg.resetSettleMs ≤ (play ((hardResetItems s.cfg).drop 2) s).now ∧
      (play ((hardResetItems s.cfg).drop 2) s).panel = ⟨none, some (resetRegs s.cfg edge)⟩ := by
  simp only [hardResetItems, List.drop_succ_cons, List.drop_zero]
  generalize [Edit.power .asleep, _, _, _, _, _] = records
  have hfall := play_now [waitItem s.cfg.resetSettleMs [], pinItem .reset .high] (happen (pinItem .reset .low) s)
  have hrise := play_now [waitItem s.cfg.resetSettleMs records]
    (play [pinItem .reset .low, waitItem s.cfg.resetSettleMs [], pinItem .reset .high] s)
  simp only [listWait_wait, listWait_pin, listWait_nil, Nat.add_zero, play_cons, play_nil] at hfall hrise
  refine ⟨_, hrise, ?_⟩
  simp only [play_cons, play_nil, happen_wait_panel, happen_reset_panel, happen_cfg]
  exact panelReset_pulse hp hfall

/-- Settles O13: the first rise leaves RESET not low, so that the pulse that follows is seen from its fall. -/
theorem hardResetPulses : Obligations.HardResetPulses := by
  intro s hs hreset
  have hkept : BlockKept s (play (hardResetItems s.cfg) (latch (askHardReset s) s)) := by
    refine blockKept_trans (blockKept_latch rfl rfl) (blockKept_play_of_busOpen ?_)
    simp [hardResetItems, pinItem, waitItem]
  obtain ⟨hexec, hsent⟩ := perform_sendsAll (i := .hardReset) (a := askHardReset s) hs rfl
    (by simp [askHardReset, askEvents, hreset]) rfl rfl nofun hkept
  obtain ⟨edge, hedge, hpanel⟩ := play_pulse (s := play ((hardResetItems s.cfg).take 2) (latch (askHardReset s) s))
    (panelReset_high_lowSince _ _ _)
  have hnow := play_now (hardResetItems s.cfg) (latch (askHardReset s) s)
  simp only [hardResetItems, listWait_wait, listWait_pin, listWait_nil] at hnow
  refine ⟨_, hexec, hsent, rfl, rfl, ⟨edge, hedge, hpanel⟩, le_trans ?_ hnow⟩
  simp only [micros, latch_now]
  omega

/-! ### INIT_SEQUENCE -/

/-- The four frames of INIT_SEQUENCE and its delay write no pixel. -/
theorem gramKept_init (s : State) : GramKept s (play (initItems s.cfg) s) := by
  simp only [initItems, play_append]
  have hwait : ∀ u, GramKept u (play [waitItem s.cfg.sleepOutMs []] u) := fun _ => gramKept_of_panel rfl
  exact gramKept_trans (gramKept_trans (gramKept_trans (gramKept_trans gramKept_command (hwait _))
    (gramKept_frame (by decide))) (gramKept_frame (by decide))) gramKept_command

/-- Settles O14: entry by entry for the pins and the records, frame by frame for the pixel memory. -/
theorem initSequenceBringsUp : Obligations.InitSequenceBringsUp := by
  intro s hs hb ht
  have hitems : (askInitSequence s).items = _ := initItems_eq s.cfg
  obtain ⟨hexec, hsent⟩ := perform_sendsAll (i := .initSequence) (a := askInitSequence s) hs rfl
    (needsBus_eq_none.mpr hb) (by rw [hitems]; rfl) (by rw [hitems]; rfl) ht (blockKept_play_latch hb rfl rfl _)
  obtain ⟨-, -, -, -, -, -, -, hpins, -, hshadow, -⟩ :=
    play_fields (askInitSequence s).items (latch (askInitSequence s) s)
  have hnow := play_now (askInitSequence s).items (latch (askInitSequence s) s)
  refine ⟨_, hexec, hsent, rfl, hpins.trans (by rw [hitems]; rfl), hshadow.trans (by rw [hitems]; rfl),
    le_trans (Nat.add_le_add_left ?_ s.now) hnow, gramKept_init (latch (askInitSequence s) s)⟩
  rw [hitems]
  exact le_of_eq (by simp [listWait, waitTime, waitItem, pinItem, micros])

/-! ### SET_ADDRESS_WINDOW -/

theorem events_window (cfg : Config) (w : Window) : (windowItems cfg w).map Item.event = windowEvents cfg w := by
  simp [windowItems, windowEvents, commandEvents, payloadEvents, columnBytes, rowBytes]

@[simp] theorem listCalls_window (cfg : Config) (w : Window) : listCalls (windowItems cfg w) = 0 := by
  simp [windowItems]

theorem framedFrom_transfers (d : Option Level) (ts : List (List Byte)) (es : List Event) :
    framedFrom d (ts.map Event.xfer ++ es) = ts.flatten.map (fun b => (d, b)) ++ framedFrom d es := by
  induction ts with
  | nil => rfl
  | cons t ts ih => simp [framedFrom, ih]

/-- The events of a command byte and its payload make one frame of the stream, whatever the chunk size (R32, R102). -/
theorem framedFrom_frame (d : Option Level) (c : Byte) (cfg : Config) (bs : List Byte) (es : List Event) :
    framedFrom d (commandEvents c ++ payloadEvents cfg bs ++ es) =
      cmdPair c :: dataPairs bs ++ framedFrom (some .high) es := by
  simp [commandEvents, payloadEvents, framedFrom, framedFrom_transfers, cmdPair, dataPairs]

theorem framed_windowEvents (cfg : Config) (w : Window) : framed (windowEvents cfg w) =
    cmdPair 0x2A#8 :: dataPairs (columnBytes w) ++ cmdPair 0x2B#8 :: dataPairs (rowBytes w) := by
  rw [framed, windowEvents, List.append_assoc _ (commandEvents 0x2B#8), framedFrom_frame, ← List.append_nil
    (commandEvents 0x2B#8 ++ _), framedFrom_frame, framedFrom, List.append_nil]
  rfl

/-- What both window frames leave when every transfer completes. -/
theorem play_window (cfg : Config) (w : Window) (s : State) :
    (play (windowItems cfg w) s).pins = { s.pins with dc := .driven .high } ∧
    (play (windowItems cfg w) s).shadow = { s.shadow with window := some w, ramwr := false } ∧
    GramKept s (play (windowItems cfg w) s) := by
  have hcolumn : columnBytes w ≠ [] := List.cons_ne_nil _ _
  have hrow : rowBytes w ≠ [] := List.cons_ne_nil _ _
  simp only [windowItems, play_append]
  refine ⟨?_, ?_, gramKept_trans (gramKept_frame (by decide)) (gramKept_frame (by decide))⟩
  · rw [play_frame_pins, play_frame_pins]
  · rw [play_frame_shadow hrow, play_frame_shadow hcolumn]
    rfl

/-- Settles O15: within bounds the fields are the operands' port values, and the two frames carry them. -/
theorem setAddressWindowSends : Obligations.SetAddressWindowSends := by
  intro s x0 y0 x1 y1 hs hb hx0 hx hx1 hy0 hy hy1 ht
  have hin : windowInBounds s.cfg ⟨x0, y0, x1, y1⟩ = true := by simp [windowInBounds, *]
  have hevents := events_window s.cfg ⟨x0, y0, x1, y1⟩
  obtain ⟨hexec, hsent⟩ := perform_sendsAll (i := .setAddressWindow x0 y0 x1 y1)
    (a := askSetAddressWindow x0 y0 x1 y1 s) hs (by simp [askSetAddressWindow, askEvents, hin])
    (needsBus_eq_none.mpr hb) hevents (listCalls_window _ _) ht (blockKept_play_latch hb rfl rfl _)
  obtain ⟨hpins, hshadow, hgram⟩ :=
    play_window s.cfg ⟨x0, y0, x1, y1⟩ (latch (askSetAddressWindow x0 y0 x1 y1 s) s)
  refine ⟨_, hexec, hsent, ?_, hpins, hshadow, hgram⟩
  rw [← coordField_eq_ofInt hx0, ← coordField_eq_ofInt (hx0.trans hx), ← coordField_eq_ofInt hy0,
    ← coordField_eq_ofInt (hy0.trans hy)]
  exact framed_windowEvents s.cfg ⟨x0, y0, x1, y1⟩

end Sys2Proof.Machine
end

section
/-! PROOFS, 41_panel_controller.md R114, 43_display_session.md R148, 10_state.md R27. The records of an operation of
which a transfer fails: segment by segment of its event list, then for SET_ADDRESS_WINDOW and PRESENT. -/

namespace Sys2Proof.Machine

open Sys2Proof.Safety

/-! ### The first transfer that fails -/

/-- The shadow once transfer number `j` of a list has failed, everything before it having happened: the records of the
entries before it, then those of its failure (R27). -/
def shadowFailing : List Item → Nat → State → Shadow
  | [], _, s => s.shadow
  | it :: is, j, s =>
    if j < itemTransfers it then it.onFail.foldl editShadow s.shadow
    else shadowFailing is (j - itemTransfers it) (happen it s)

/-- A list whose transfers complete up to number `j`, which fails, ends with TransportError and these records. -/
theorem runItems_failing {items : List Item} {j k : Nat} {s : State} (hb : s.busOpen = true)
    (hc : listCalls items = 0) (hj : j < listTransfers items) (ht : TransfersComplete s j)
    (hf : transferAnswer s.world j = .fail k) :
    Ended (runItems items s) .transport ∧ BlockKept s (runItems items s) ∧
      (runItems items s).shadow = shadowFailing items j s := by
  induction items generalizing j s with
  | nil => exact absurd hj (Nat.not_lt_zero j)
  | cons it is ih =>
    rw [listCalls_cons] at hc
    rw [listTransfers_cons] at hj
    rw [shadowFailing]
    split
    case isTrue hlt => -- it is this entry's
      obtain ⟨bs, he⟩ := itemTransfers_pos.mp (Nat.zero_lt_of_lt hlt)
      obtain rfl : j = 0 := by simpa [itemTransfers, he] using hlt
      have hrun := runItems_fails_at (items := it :: is) (n := 0) (s := s) rfl he nofun rfl hf
      rw [hrun]
      exact ⟨⟨rfl, rfl, rfl, rfl⟩, blockKept_failTransfer it _ hb, failTransfer_shadow it _ _⟩
    case isFalse hge =>
      rw [runItems_cons_done (doItem_happens (fun h => ht 0 (by omega)) (by omega))]
      have hstep : BlockKept s (happen it s) := blockKept_play [it] hb
      obtain ⟨hended, hkept, hshadow⟩ := ih (j := j - itemTransfers it) (s := happen it s) (by simp [hb]) (by omega)
        (by omega) (fun m hm => by rw [happen_transferAnswer]; exact ht _ (by omega))
        (by rw [happen_transferAnswer, Nat.sub_add_cancel (by omega)]; exact hf)
      exact ⟨hended, blockKept_trans hstep hkept, hshadow⟩

/-- An operation on an open bus that asks for events alone, and whose transfer number `j` is the first to fail. -/
theorem perform_failing {i : Instr} {a : Ask} {s : State} {j k : Nat} (hs : Idle s) (hb : s.busOpen = true)
    (hlegal : a.illegal = false) (hstop : a.stop = none) (hcanvas : a.canvas = s.canvas) (henc : a.encOut = s.encOut)
    (hevents : a.items.map Item.event = eventsOf i s) (hcalls : listCalls a.items = 0)
    (hj : j < xferCount (eventsOf i s)) (ht : TransfersComplete s j) (hf : transferAnswer s.world j = .fail k) :
    ∃ t, perform a s = .next t ∧ Ended t .transport ∧ BlockKept s t ∧
      t.shadow = shadowFailing a.items j (latch a s) := by
  rw [← hevents, ← listTransfers_eq_xferCount] at hj
  obtain ⟨hended, hkept, hshadow⟩ := runItems_failing (s := latch a s) hb hcalls hj ht hf
  exact ⟨_, perform_runs hs.1 hs.2 hlegal hstop, hended, blockKept_trans (blockKept_latch hcanvas henc) hkept,
    hshadow⟩

/-! ### The records, segment by segment -/

theorem shadowFailing_append (a b : List Item) (j : Nat) (s : State) : shadowFailing (a ++ b) j s =
    if j < listTransfers a then shadowFailing a j s else shadowFailing b (j - listTransfers a) (play a s) := by
  induction a generalizing j s with
  | nil => rfl
  | cons it is ih =>
    rw [List.cons_append, shadowFailing, shadowFailing, ih, listTransfers_cons, play_cons, Nat.sub_sub]
    by_cases h : j < itemTransfers it
    · rw [if_pos h, if_pos h, if_pos (by omega)]
    · have hrest : j - itemTransfers it < listTransfers is ↔ j < itemTransfers it + listTransfers is := by omega
      rw [if_neg h, if_neg h]
      simp only [hrest]

theorem shadowFailing_command (b : Byte) (ok bad : List Edit) (s : State) :
    shadowFailing (commandItems b ok bad) 0 s = bad.foldl editShadow s.shadow := rfl

/-- Only the last transfer records its success, so any of them that fails finds the shadow as it was. -/
theorem shadowFailing_transfers (ok bad : List Edit) {ts : List (List Byte)} {j : Nat} (s : State)
    (hj : j < ts.length) : shadowFailing (transferItems ok bad ts) j s = bad.foldl editShadow s.shadow := by
  induction ts generalizing j s with
  | nil => exact absurd hj (Nat.not_lt_zero j)
  | cons t ts ih =>
    cases ts with
    | nil =>
      obtain rfl : j = 0 := by simpa using hj
      rfl
    | cons u us =>
      cases j with
      | zero => rfl
      | succ j => exact ih (j := j) (happen ⟨.xfer t, [], bad⟩ s) (Nat.lt_of_succ_lt_succ hj)

theorem shadowFailing_payload (cfg : Config) {bs : List Byte} (ok bad : List Edit) {j : Nat} (s : State)
    (hj : j < (chunks cfg bs).length) :
    shadowFailing (payloadItems cfg bs ok bad) j s = bad.foldl editShadow s.shadow :=
  shadowFailing_transfers ok bad (happen (pinItem .dc .high) s) hj

/-- A frame that gives the window up on any failure, and whose command byte is not 0x2C. -/
theorem shadowFailing_frame {b : Byte} (hb : (b == 0x2C#8) = false) (cfg : Config) {bs : List Byte} (ok : List Edit)
    {j : Nat} (s : State) (hj : j < 1 + (chunks cfg bs).length) :
    shadowFailing (commandItems b [] [.window none] ++ payloadItems cfg bs ok [.window none]) j s =
      { s.shadow with window := none, ramwr := if j = 0 then s.shadow.ramwr else false } := by
  rw [shadowFailing_append, listTransfers_command]
  cases j with
  | zero => rfl
  | succ j =>
    rw [if_neg (by omega), shadowFailing_payload cfg ok _ _ (by omega)]
    simp [commandItems, editShadow, pinItem, hb, happen]

/-- Both frames of a window give it up whichever transfer fails, and `ramwr` is 0 once 0x2A has been sent. -/
theorem shadowFailing_window (cfg : Config) (w : Window) {j : Nat} (s : State)
    (hj : j < listTransfers (windowItems cfg w)) : shadowFailing (windowItems cfg w) j s =
      { s.shadow with window := none, ramwr := if j = 0 then s.shadow.ramwr else false } := by
  rw [windowItems, List.append_assoc, listTransfers_append] at hj
  rw [windowItems, List.append_assoc, shadowFailing_append]
  simp only [listTransfers_append, listTransfers_command, listTransfers_payload] at hj ⊢
  split
  case isTrue hfirst => exact shadowFailing_frame rfl cfg [] s hfirst
  case isFalse hsecond =>
    rw [shadowFailing_frame rfl cfg _ _ (by omega), play_append,
      play_frame_shadow (bs := columnBytes w) (List.cons_ne_nil _ _), if_neg (show j ≠ 0 by omega)]
    simp

/-! ### PRESENT -/

theorem events_present (cfg : Config) (canvas : Memory Colour) :
    (presentItems cfg canvas).map Item.event = presentEvents cfg canvas := by
  simp [presentItems, presentEvents, ramWriteItems, events_window, commandEvents, payloadEvents]

@[simp] theorem listCalls_present (cfg : Config) (canvas : Memory Colour) :
    listCalls (presentItems cfg canvas) = 0 := by
  simp [presentItems, ramWriteItems]

/-- After the window the full frame stays recorded, and `ramwr` is 1 once 0x2C has been sent. -/
theorem shadowFailing_present (cfg : Config) (canvas : Memory Colour) {j : Nat} (s : State)
    (hj : j < listTransfers (presentItems cfg canvas)) (hw : listTransfers (windowItems cfg (fullWindow cfg)) ≤ j) :
    shadowFailing (presentItems cfg canvas) j s = { s.shadow with
      window := some (fullWindow cfg), ramwr := decide (listTransfers (windowItems cfg (fullWindow cfg)) < j) } := by
  obtain ⟨-, hshadow, -⟩ := play_window cfg (fullWindow cfg) s
  obtain ⟨m, rfl⟩ := Nat.exists_eq_add_of_le hw
  rw [presentItems, List.append_assoc, listTransfers_append] at hj
  rw [presentItems, List.append_assoc, shadowFailing_append, if_neg (by omega), Nat.add_sub_cancel_left,
    shadowFailing_append, ramWriteItems, listTransfers_command]
  cases m with
  | zero => simp [shadowFailing_command, hshadow]
  | succ m =>
    simp only [ramWriteItems, listTransfers_append, listTransfers_command, listTransfers_payload] at hj
    rw [if_neg (by omega), shadowFailing_payload _ _ _ _ (by omega)]
    simp [commandItems, editShadow, happen, pinItem, hshadow]

/-- Settles O34: the failing transfer is one of the window's, or a PRESENT's after them. -/
theorem failedWindowShadow : Obligations.FailedWindowShadow := by
  intro s i w j k hs hb hi hj ht hf
  have hwindow : xferCount (windowEvents s.cfg w) = listTransfers (windowItems s.cfg w) := by
    rw [listTransfers_eq_xferCount, events_window]
  have hpos : 0 < listTransfers (windowItems s.cfg w) := by simp [windowItems]
  rw [hwindow]
  rcases hi with ⟨rfl, rfl⟩ | ⟨rfl, hin⟩
  · obtain ⟨t, hexec, hended, hkept, hshadow⟩ := perform_failing (i := .present) (a := askPresent s) hs hb rfl
      (needsBus_eq_none.mpr hb) rfl rfl (events_present _ _) (listCalls_present _ _) hj ht hf
    refine ⟨t, hexec, hended, hkept, hshadow.trans ?_⟩
    change shadowFailing (presentItems s.cfg s.canvas) j _ = _
    by_cases hlt : j < listTransfers (windowItems s.cfg (fullWindow s.cfg))
    · rw [presentItems, List.append_assoc, shadowFailing_append, if_pos hlt, shadowFailing_window _ _ _ hlt,
        if_pos hlt, decide_eq_false (by omega)]
      rfl
    · rw [shadowFailing_present _ _ _ _ (not_lt.mp hlt), if_neg hlt, if_neg (by omega)]
      · rfl
      · rwa [listTransfers_eq_xferCount, events_present]
  · obtain ⟨t, hexec, hended, hkept, hshadow⟩ := perform_failing (i := .setAddressWindow w.x0 w.y0 w.x1 w.y1)
      (a := askSetAddressWindow w.x0 w.y0 w.x1 w.y1 s) hs hb (by simp [askSetAddressWindow, askEvents, hin])
      (needsBus_eq_none.mpr hb) rfl rfl (events_window _ _) (listCalls_window _ _) hj ht hf
    have hlt : j < listTransfers (windowItems s.cfg w) := hwindow ▸ hj
    refine ⟨t, hexec, hended, hkept, hshadow.trans ?_⟩
    rw [if_pos hlt, decide_eq_false (by omega)]
    exact shadowFailing_window s.cfg w _ hlt

end Sys2Proof.Machine
end

section
/-! PROOFS, 42_pixel_encoder.md. The packed pixel (R137), the rotation (R133, R140), the pixel stream (R136), and ENCODE
(R130, R139). -/

namespace Sys2Proof.Machine

open Sys2Proof.Safety

/-! ### The packed pixel -/

/-- What a panel shows of a packed colour: every channel with its low bits cleared (R137). -/
theorem unpack565_pack565 (c : Colour) :
    unpack565 (pack565 c) = ⟨c.r &&& 0xF8#8, c.g &&& 0xFC#8, c.b &&& 0xF8#8⟩ := by
  rw [unpack565, Colour.mk.injEq]
  refine ⟨?_, ?_, ?_⟩
  all_goals
    refine BitVec.eq_of_getLsbD_eq fun i hi => ?_
    simp only [pack565]
    interval_cases i <;> simp

/-- No bit of a pixel word is lost by unpacking it. -/
theorem pack565_unpack565 (v : Word16) : pack565 (unpack565 v) = v := by
  refine BitVec.eq_of_getLsbD_eq fun i hi => ?_
  simp only [pack565, unpack565]
  interval_cases i <;> simp

/-- Settles O6: packing undoes unpacking, so two packed words are equal exactly when they unpack alike. -/
theorem pixelRoundTrip : Obligations.PixelRoundTrip := by
  refine ⟨unpack565_pack565, fun c d => ?_⟩
  calc pack565 c = pack565 d
    _ ↔ unpack565 (pack565 c) = unpack565 (pack565 d) :=
      (Function.LeftInverse.injective pack565_unpack565).eq_iff.symm
    _ ↔ _ := by rw [unpack565_pack565, unpack565_pack565, Colour.mk.injEq]

/-! ### The rotation of a square raster -/

section Rotation

variable {n x y : Nat} (hx : x < n) (hy : y < n)
include hx hy

theorem rotSrc_lt (rot : Rot) : (rotSrc rot n n x y).1 < n ∧ (rotSrc rot n n x y).2 < n := by
  cases rot with
  | cw90 => exact ⟨hy, Nat.sub_one_sub_lt_of_lt hx⟩
  | ccw90 => exact ⟨Nat.sub_one_sub_lt_of_lt hy, hx⟩

theorem rotDst_lt (rot : Rot) : (rotDst rot n n x y).1 < n ∧ (rotDst rot n n x y).2 < n := by
  cases rot with
  | cw90 => exact ⟨Nat.sub_one_sub_lt_of_lt hy, hx⟩
  | ccw90 => exact ⟨hy, Nat.sub_one_sub_lt_of_lt hx⟩

/-- The destination of a source position reads that position (R140). -/
theorem rotSrc_rotDst (rot : Rot) :
    rotSrc rot n n (rotDst rot n n x y).1 (rotDst rot n n x y).2 = (x, y) := by
  cases rot with
  | cw90 => exact congrArg (x, ·) (Nat.sub_sub_self (Nat.le_sub_one_of_lt hy))
  | ccw90 => exact congrArg (·, y) (Nat.sub_sub_self (Nat.le_sub_one_of_lt hx))

/-- The position that a destination reads lands on that destination. -/
theorem rotDst_rotSrc (rot : Rot) :
    rotDst rot n n (rotSrc rot n n x y).1 (rotSrc rot n n x y).2 = (x, y) := by
  cases rot with
  | cw90 => exact congrArg (·, y) (Nat.sub_sub_self (Nat.le_sub_one_of_lt hx))
  | ccw90 => exact congrArg (x, ·) (Nat.sub_sub_self (Nat.le_sub_one_of_lt hy))

end Rotation

/-- A fixed position is its own mirror image in both directions, so it is the centre (R133). -/
theorem rotSrc_eq_self_iff {n x y : Nat} (hy : y < n) (rot : Rot) :
    rotSrc rot n n x y = (x, y) ↔ 2 * x + 1 = n ∧ 2 * y + 1 = n := by
  cases rot <;> simp only [rotSrc, Prod.mk.injEq] <;> omega

/-- On a square the forward map of either rotation is the other rotation's source map. -/
theorem rotDst_cw90_square (n x y : Nat) : rotDst .cw90 n n x y = rotSrc .ccw90 n n x y := rfl

theorem rotDst_ccw90_square (n x y : Nat) : rotDst .ccw90 n n x y = rotSrc .cw90 n n x y := rfl

/-- Settles O7: the forward map inverts the source map, and on a square it is the other rotation. -/
theorem rotationLaws : Obligations.RotationLaws := by
  intro n x y hx hy
  have hdst (rot : Rot) : (rotDst rot n n x y).1 < n ∧ (rotDst rot n n x y).2 < n ∧
      rotSrc rot n n (rotDst rot n n x y).1 (rotDst rot n n x y).2 = (x, y) :=
    ⟨(rotDst_lt hx hy rot).1, (rotDst_lt hx hy rot).2, rotSrc_rotDst hx hy rot⟩
  refine ⟨rotSrc_lt hx hy, fun rot => ⟨rotDst rot n n x y, hdst rot, fun q hq1 hq2 hq => ?_⟩, ?_, ?_, ⟨rfl, ?_⟩,
    rotSrc_eq_self_iff hy, rfl, rfl, hdst⟩
  · have hback := rotDst_rotSrc hq1 hq2 rot
    rw [hq] at hback
    exact hback.symm
  · rw [← rotDst_cw90_square]
    exact rotDst_rotSrc hx hy .cw90
  · rw [← rotDst_ccw90_square]
    exact rotDst_rotSrc hx hy .ccw90
  · exact congrArg₂ Prod.mk (Nat.sub_sub_self (Nat.le_sub_one_of_lt hx)) (Nat.sub_sub_self (Nat.le_sub_one_of_lt hy))

/-! ### The pixel stream -/

/-- One destination row of the pixel stream. -/
theorem length_encodedRow (cfg : Config) (canvas : Memory Colour) (y : Nat) :
    ((List.range cfg.width).flatMap fun x => bytes16 (encodedPixel cfg canvas x y)).length = 2 * cfg.width :=
  length_flatMap_range _ 2 (fun _ => rfl) _

theorem length_encodeCanvas (cfg : Config) (canvas : Memory Colour) :
    (encodeCanvas cfg canvas).length = 2 * cfg.width * cfg.height :=
  length_flatMap_range _ _ (length_encodedRow cfg canvas) _

/-- Byte `b` of destination `(x, y)` stands `b` places after twice the position's index (R136). -/
theorem getElem?_encodeCanvas {cfg : Config} (canvas : Memory Colour) {x y b : Nat} (hx : x < cfg.width)
    (hy : y < cfg.height) (hb : b < 2) :
    (encodeCanvas cfg canvas)[2 * posIndex cfg x y + b]? = (bytes16 (encodedPixel cfg canvas x y))[b]? := by
  have hindex : 2 * posIndex cfg x y + b = 2 * cfg.width * y + (2 * x + b) := by
    unfold posIndex
    ring
  rw [hindex, encodeCanvas, getElem?_flatMap_range _ _ (length_encodedRow cfg canvas) hy (by omega),
    getElem?_flatMap_range _ 2 (fun _ => rfl) hx hb]

/-- Settles O8: rows of equal length, and two bytes a position in each. -/
theorem encodedStreamLayout : Obligations.EncodedStreamLayout := by
  intro cfg canvas
  exact ⟨length_encodeCanvas cfg canvas, fun x y hx hy =>
    ⟨getElem?_encodeCanvas canvas hx hy Nat.zero_lt_two, getElem?_encodeCanvas canvas hx hy Nat.one_lt_two⟩⟩

/-! ### ENCODE -/

/-- A legal operation that asks for no event only writes the canvas and the returned bytes it has latched, and `err`. -/
theorem perform_no_events {a : Ask} {s : State} (hs : Idle s) (hq : SeqInv s) (hlegal : a.illegal = false)
    (hstop : a.stop = none) (hitems : a.items = []) :
    perform a s = .next { s with canvas := a.canvas, encOut := a.encOut, err := .none } := by
  rw [perform_runs hs.1 hs.2 hlegal hstop, hitems]
  exact congrArg Host.Outcome.next (endOp_idle (s := { s with canvas := a.canvas, encOut := a.encOut }) hs.2 hq .none)

/-- Settles O19: ENCODE asks for no event and latches the canvas as it is. -/
theorem encodeReturnsStream : Obligations.EncodeReturnsStream :=
  fun _ hs hq => perform_no_events hs hq rfl rfl rfl

end Sys2Proof.Machine
end

section
/-! PROOFS, 43_display_session.md R149, R150. CLEAR and DRAW: what they write to the canvas. -/

namespace Sys2Proof.Machine

open Sys2Proof.Safety

/-! ### Reading the canvas after a write -/

theorem canvasAt_fill {cfg : Config} (c : Colour) {x y : Nat} (hx : x < cfg.width) (hy : y < cfg.height) :
    canvasAt cfg (Memory.fill cfg.npix c) x y = c := by
  rw [canvasAt, Memory.get_fill, if_pos (posIndex_lt hx hy), Option.getD_some]

theorem canvasAt_set (cfg : Config) (canvas : Memory Colour) (c : Colour) (x y : Nat) :
    canvasAt cfg (canvas.set (posIndex cfg x y) c) x y = c := by
  rw [canvasAt, Memory.get_set_same, Option.getD_some]

theorem isSome_get_fill {α : Type} (n : Nat) (v : α) (i : Nat) : ((Memory.fill n v).get i).isSome ↔ i < n := by
  rw [Memory.get_fill]
  split <;> simp [*]

/-! ### CLEAR and DRAW -/

/-- Settles O20: CLEAR asks for no event and latches the filled canvas. -/
theorem clearFillsCanvas : Obligations.ClearFillsCanvas := fun s c hs hq =>
  ⟨Memory.fill s.cfg.npix c, perform_no_events hs hq rfl rfl rfl, Memory.fill_wf _ c,
    fun _ _ hx hy => canvasAt_fill c hx hy, isSome_get_fill _ c⟩

/-- Settles O21: DRAW asks for no event and latches the canvas with one position set; the check fails outside. -/
theorem drawWritesOnePosition : Obligations.DrawWritesOnePosition := by
  intro s x y c hs hq
  have hillegal : (askDraw x y c s).illegal = !onCanvas s.cfg x y := rfl
  refine ⟨fun hin => ?_, fun hout => ?_⟩
  · have hlegal : (askDraw x y c s).illegal = false := by rw [hillegal, onCanvas, decide_eq_true hin]; rfl
    exact ⟨_, perform_no_events hs hq hlegal rfl rfl, canvasAt_set s.cfg s.canvas c _ _,
      fun _ hi => Memory.get_set_other hi c s.canvas⟩
  · have hbad : (askDraw x y c s).illegal = true := by rw [hillegal, onCanvas, decide_eq_false hout]; rfl
    exact (perform_illegal hs.1 hs.2 hbad).trans (congrArg _ (endOp_idle hs.2 hq .configuration))

end Sys2Proof.Machine
end

section
/-! PROOFS, 43_display_session.md R146, R147. PRESENT when its transfers complete, and its wire image. -/

namespace Sys2Proof.Machine

open Sys2Proof.Safety

/-! ### PRESENT -/

/-- What the window, 0x2C and the pixel stream leave when every transfer completes. -/
theorem play_present (cfg : Config) (canvas : Memory Colour) (s : State) :
    (play (presentItems cfg canvas) s).pins = { s.pins with dc := .driven .high } ∧
    (play (presentItems cfg canvas) s).shadow = { s.shadow with window := some (fullWindow cfg), ramwr := true } := by
  obtain ⟨hpins, hshadow, -⟩ := play_window cfg (fullWindow cfg) s
  simp only [presentItems, ramWriteItems, play_append]
  refine ⟨?_, ?_⟩
  · rw [play_frame_pins, hpins]
  · calc _ = (play (commandItems 0x2C#8 [] []) (play (windowItems cfg (fullWindow cfg)) s)).shadow := by
          rw [play_payload_shadow, List.foldl_nil, ite_self]
      _ = { (play (windowItems cfg (fullWindow cfg)) s).shadow with ramwr := true } := rfl
      _ = _ := by rw [hshadow]

/-- Settles O22: the three parts of the list one after another; on an open bus nothing else of the block moves. -/
theorem presentSends : Obligations.PresentSends := by
  intro s hs hb ht
  obtain ⟨hexec, hsent⟩ := perform_sendsAll (i := .present) (a := askPresent s) hs rfl (needsBus_eq_none.mpr hb)
    (events_present _ _) (listCalls_present _ _) ht (blockKept_play_latch hb rfl rfl _)
  obtain ⟨hpins, hshadow⟩ := play_present s.cfg s.canvas (latch (askPresent s) s)
  exact ⟨_, hexec, hsent, hpins, hshadow⟩

/-! ### The wire image -/

theorem framed_presentEvents (cfg : Config) (canvas : Memory Colour) : framed (presentEvents cfg canvas) =
    cmdPair 0x2A#8 :: dataPairs (columnBytes (fullWindow cfg)) ++
    cmdPair 0x2B#8 :: dataPairs (rowBytes (fullWindow cfg)) ++
    cmdPair 0x2C#8 :: dataPairs (encodeCanvas cfg canvas) := by
  rw [presentEvents, List.append_assoc, framed, framedFrom_append, ← framed, framed_windowEvents,
    ← List.append_nil (commandEvents 0x2C#8 ++ _), framedFrom_frame, framedFrom, List.append_nil]

theorem length_payloadEvents (cfg : Config) (bs : List Byte) :
    (payloadEvents cfg bs).length = (chunks cfg bs).length + 1 := by
  simp [payloadEvents]

/-- A window is two frames of one command byte and four data bytes, each sent in one transfer. -/
theorem length_windowEvents {cfg : Config} (h : 4 ≤ cfg.chunkBytes) (w : Window) :
    (windowEvents cfg w).length = 8 := by
  have hone : ∀ a b, (chunks cfg (windowBytes a b)).length = 1 := fun a b => by
    rw [chunks_single (bs := windowBytes a b) (List.cons_ne_nil _ _) h, List.length_singleton]
  simp [windowEvents, commandEvents, length_payloadEvents, hone]

theorem length_presentEvents {cfg : Config} (h : 4 ≤ cfg.chunkBytes) (canvas : Memory Colour) :
    (presentEvents cfg canvas).length = 11 + cfg.nchunk (2 * cfg.width * cfg.height) := by
  have hstream : (chunks cfg (encodeCanvas cfg canvas)).length = cfg.nchunk (2 * cfg.width * cfg.height) := by
    rw [length_chunks (by omega), length_encodeCanvas, Config.nchunk]
  simp only [presentEvents, List.length_append, length_windowEvents h, length_payloadEvents, hstream, commandEvents,
    List.length_cons, List.length_nil]
  omega

theorem wait_notMem_commandEvents (ms : Nat) (b : Byte) : Event.wait ms ∉ commandEvents b := by
  simp [commandEvents]

theorem wait_notMem_payloadEvents (ms : Nat) (cfg : Config) (bs : List Byte) :
    Event.wait ms ∉ payloadEvents cfg bs := by
  simp [payloadEvents]

/-- Command bytes and payloads alone make no delay. -/
theorem wait_notMem_presentEvents (ms : Nat) (cfg : Config) (canvas : Memory Colour) :
    Event.wait ms ∉ presentEvents cfg canvas := by
  simp [presentEvents, windowEvents, wait_notMem_commandEvents, wait_notMem_payloadEvents]

/-- Settles O23: the events PRESENT asks for are those of its expansion, frame by frame. -/
theorem presentWireImage : Obligations.PresentWireImage := by
  intro s _
  have hevents : (askPresent s).items.map Item.event = presentEvents s.cfg s.canvas := events_present s.cfg s.canvas
  refine ⟨?_, fun h => ?_, fun ms => ?_⟩
  · rw [hevents, framed_presentEvents, columnBytes_fullWindow, rowBytes_fullWindow]
    rfl
  · rw [← length_presentEvents h s.canvas, ← hevents, List.length_map]
  · rw [hevents]
    exact wait_notMem_presentEvents ms s.cfg s.canvas

end Sys2Proof.Machine
end

section
/-! PROOFS, 43_display_session.md R145. SETUP: what its events leave, and a configuration call of it that fails. -/

namespace Sys2Proof.Machine

open Sys2Proof.Safety

/-! ### A configuration call that fails -/

theorem doItem_call_fails {it : Item} {s : State} (hcall : itemCalls it = 1) (hf : callAnswer s.world 0 = false) :
    doItem it s = .failed (raise .transport (applyEdits it.onFail (takeCallAnswer s))) := by
  rcases doItem_cases it s with ⟨-, -, hc⟩ | ⟨bs, k, he, -⟩ | ⟨-, -, h⟩ | ⟨bs, he, -⟩
  · simp [hc hcall] at hf
  · simp [itemCalls, he] at hcall
  · exact h
  · simp [itemCalls, he] at hcall

/-- A list without transfers whose calls succeed up to entry number `n`, itself a call that fails, ends with that
failure. -/
theorem runItems_call_fails_at {items : List Item} {n : Nat} {it : Item} {s : State} (hn : items[n]? = some it)
    (hcall : itemCalls it = 1) (ht : listTransfers (items.take n) = 0)
    (hc : ∀ m, m < listCalls (items.take n) → callAnswer s.world m = true)
    (hf : callAnswer s.world (listCalls (items.take n)) = false) :
    runItems items s =
      endOp .transport (applyEdits it.onFail (takeCallAnswer (play (items.take n) s))) := by
  have hsplit : items = items.take n ++ it :: items.drop (n + 1) := by
    obtain ⟨hlt, rfl⟩ := List.getElem?_eq_some_iff.mp hn
    simp
  have hf' : callAnswer (play (items.take n) s).world 0 = false := by rw [play_callAnswer, Nat.zero_add, hf]
  calc runItems items s
      = runItems (it :: items.drop (n + 1)) (play (items.take n) s) := by
        conv_lhs => rw [hsplit]
        exact runItems_append _ _ s (by simp [ht]) hc
    _ = _ := by simp only [runItems, doItem_call_fails hcall hf', raise_eq]

/-! ### The events of SETUP -/

/-- A legal SETUP: the bus is closed and the geometry is square and not empty. -/
theorem setup_runs {s : State} (hs : Idle s) (hb : s.busOpen = false) (hsquare : s.cfg.width = s.cfg.height)
    (hwidth : 1 ≤ s.cfg.width) :
    exec .setup s = .next (runItems (setupItems s.cfg) (latch (askSetup s) s)) :=
  perform_runs (a := askSetup s) hs.1 hs.2 (by simp [askSetup, askEvents, hwidth, ← hsquare])
    (by simp [askSetup, askEvents, hb])

/-- Call number `k` is entry number `4 + k`; the entries before it are the pin events and the earlier calls, and none of
them opens the bus. -/
theorem setupItems_call (cfg : Config) {k : Nat} (hk : k < 3) :
    listTransfers ((setupItems cfg).take (4 + k)) = 0 ∧ listCalls ((setupItems cfg).take (4 + k)) = k ∧
    ((setupItems cfg).take (4 + k)).any (fun it => decide (Edit.busOpen ∈ it.onOk)) = false ∧
    ∃ it, (setupItems cfg)[4 + k]? = some it ∧ itemCalls it = 1 ∧ it.onFail = [] := by
  interval_cases k <;> exact ⟨rfl, rfl, rfl, _, rfl, rfl, rfl⟩

/-- Events that the receiver does not hear leave the panel as it is. -/
theorem play_panel_of_unheard {items : List Item}
    (h : ∀ it, it ∈ items → ∀ cfg now dc p, panelSee cfg now dc it.event p = p) (s : State) :
    (play items s).panel = s.panel := by
  induction items generalizing s with
  | nil => rfl
  | cons it is ih =>
    obtain ⟨-, -, -, -, -, -, -, -, -, -, -, -, hpanel, -⟩ := happen_fields it s
    rw [play_cons, ih (fun i hi => h i (List.mem_cons_of_mem it hi)), hpanel, h it List.mem_cons_self]

theorem setupItems_unheard {cfg : Config} {it : Item} (h : it ∈ setupItems cfg) (cfg' : Config) (now : Nat)
    (dc : PinState) (p : Panel) : panelSee cfg' now dc it.event p = p := by
  simp only [setupItems, List.mem_cons, List.not_mem_nil, or_false] at h
  rcases h with rfl | rfl | rfl | rfl | rfl | rfl | rfl <;> rfl

/-- The four pin events decide the pins, whatever they were; no event of SETUP reaches the panel or the shadow. -/
theorem play_setup (cfg : Config) {k : Nat} (hk : k ≤ 3) (s : State) :
    (play ((setupItems cfg).take (4 + k)) s).pins = ⟨.outUndriven, .outUndriven, .driven .high⟩ ∧
    (play ((setupItems cfg).take (4 + k)) s).shadow = s.shadow ∧
    (play ((setupItems cfg).take (4 + k)) s).panel = s.panel := by
  obtain ⟨-, -, -, -, -, -, -, hpins, -, hshadow, -⟩ := play_fields ((setupItems cfg).take (4 + k)) s
  rw [hpins, hshadow]
  refine ⟨?_, ?_, play_panel_of_unheard (fun it hit => setupItems_unheard (List.mem_of_mem_take hit)) s⟩ <;>
    interval_cases k <;> rfl

/-! ### SETUP -/

/-- Settles O24: all seven entries happen, and the last one opens the bus. -/
theorem setupOpensTheBus : Obligations.SetupOpensTheBus := by
  intro s hs hb hsquare hwidth hc
  have hrun := runItems_complete (setupItems s.cfg) (latch (askSetup s) s) nofun hc
  obtain ⟨hpins, hshadow, hpanel⟩ := play_setup s.cfg le_rfl (latch (askSetup s) s)
  obtain ⟨hcfg, -, -, -, -, hrace, hopen, -, hcanvas, -, htrace, henc, hwatcher, hinputs, hpres⟩ :=
    play_fields (setupItems s.cfg) (latch (askSetup s) s)
  exact ⟨_, (setup_runs hs hb hsquare hwidth).trans (congrArg _ hrun), htrace, hpins, hopen.trans (Bool.or_true _),
    ⟨rfl, rfl, rfl, rfl⟩, hcanvas, henc, hshadow, hpanel, hcfg, hrace, hwatcher, hinputs, hpres⟩

/-- Settles O25: the entries before the failing call happen, and its failure records nothing. -/
theorem setupCallFails : Obligations.SetupCallFails := by
  intro s k hs hb hsquare hwidth hk hc hf
  obtain ⟨hxfers, hcalls, hopens, it, hit, hcall, hbad⟩ := setupItems_call s.cfg hk
  have hrun := runItems_call_fails_at (s := latch (askSetup s) s) hit hcall hxfers (by rwa [hcalls]) (by rwa [hcalls])
  obtain ⟨hpins, hshadow, hpanel⟩ := play_setup s.cfg hk.le (latch (askSetup s) s)
  obtain ⟨-, -, -, -, -, -, hopen, -, -, -, htrace, -⟩ :=
    play_fields ((setupItems s.cfg).take (4 + k)) (latch (askSetup s) s)
  have hkept := blockKept_trans (blockKept_latch (a := askSetup s) rfl rfl)
    (blockKept_play_of_busOpen (hopen.trans (by rw [hopens, Bool.or_false])))
  rw [hbad] at hrun
  refine ⟨_, (setup_runs hs hb hsquare hwidth).trans (congrArg _ hrun), ?_, hpins, ⟨rfl, rfl, rfl, rfl⟩, ?_, hshadow,
    hpanel⟩
  · rw [List.map_take] at htrace
    exact htrace
  · obtain ⟨h1, h2, h3, h4⟩ := hkept
    exact ⟨h1, h2, by simpa using h3, h4⟩

end Sys2Proof.Machine
end

section
/-! PROOFS, 44_wire_commands.md R161, R162, R163. The bytes of the WIRE, PIXEL and WINDOW rows at the receiver, and what
leads a receiver out of UNDEFINED. -/

namespace Sys2Proof.Machine

open Sys2Proof.Safety

/-! ### Bytes that reach the receiver by themselves -/

theorem arriveFrame_runs {s : State} (hr : s.race = false) (c : Byte) (data : List Byte) :
    arriveFrame c data s = .next (withPanel s (panelData s.cfg data (panelCommand s.cfg (arrival s) c s.panel))) := by
  rw [arriveFrame, if_neg (by simp [hr])]
  rfl

theorem arriveData_runs {s : State} (hr : s.race = false) (data : List Byte) :
    arriveData data s = .next (withPanel s (panelData s.cfg data s.panel)) := by
  rw [arriveData, if_neg (by simp [hr])]
  rfl

/-- A WIRE row is the arrival of the frame it is decoded from. -/
theorem exec_of_decodeFrame {c : Byte} {data : List Byte} {i : Instr} (h : decode (.wire (c :: data)) = .ok i)
    (s : State) : exec i s = arriveFrame c data s := by
  have hframe : decodeFrame c data = .ok i := h
  unfold decodeFrame at hframe
  split at hframe
  case h_8 => cases hframe
  all_goals
    rename_i hc
    cases hframe
    rw [eq_ofNat_of_toNat hc]
    rfl

theorem panelCommand_undefined {cfg : Config} {now : Nat} {c : Byte} {p : Panel} (h : p.regs = none) :
    panelCommand cfg now c p = p := by
  obtain ⟨low, regs⟩ := p
  obtain rfl : regs = none := h
  rfl

theorem panelData_undefined {cfg : Config} {ds : List Byte} {p : Panel} (h : p.regs = none) :
    panelData cfg ds p = p := by
  obtain ⟨low, regs⟩ := p
  obtain rfl : regs = none := h
  exact panelData_none cfg ds low

theorem arriveFrame_undefined {c : Byte} {data : List Byte} {s t : State} (hu : s.panel.regs = none)
    (h : arriveFrame c data s = .next t) : t.panel.regs = none := by
  unfold arriveFrame at h
  split at h <;> cases h
  rw [panelCommand_undefined hu, panelData_undefined hu, hu]

theorem arriveData_undefined {data : List Byte} {s t : State} (hu : s.panel.regs = none)
    (h : arriveData data s = .next t) : t.panel.regs = none := by
  unfold arriveData at h
  split at h <;> cases h
  rw [panelData_undefined hu, hu]

/-- An instruction that is no host operation leaves an UNDEFINED receiver so. -/
theorem exec_undefined {i : Instr} {s t : State} (hi : isHostop i = false) (hu : s.panel.regs = none)
    (h : exec i s = .next t) : t.panel.regs = none := by
  rw [← askOf_isSome i s] at hi
  rcases exec_cases i s with ⟨a, ha, -⟩ | ⟨c, data, he⟩ | ⟨data, he⟩
  · simp [ha] at hi
  · exact arriveFrame_undefined hu ((he s).2.1 ▸ h)
  · exact arriveData_undefined hu ((he s).2.1 ▸ h)

/-- Settles O50: each of these rows is the arrival of its bytes, and no byte makes an UNDEFINED receiver known. -/
theorem bytesReachThePanel : Obligations.BytesReachThePanel := by
  refine ⟨fun s hr => ⟨fun c data i h => ?_, fun v => arriveData_runs hr _, fun a b => arriveData_runs hr _⟩,
    panelData_append, fun s t i hu hi h => exec_undefined hi hu h⟩
  rw [exec_of_decodeFrame h, arriveFrame_runs hr]

/-! ### The events of a step from UNDEFINED -/

/-- Timed events lead from `s` to `t` and are all the pins and the panel have taken, whatever is still presented. -/
def Heard (s t : State) : Prop := Since True (takePresented [] s) (takePresented [] t)

theorem happen_takePresented (it : Item) (l : List Request) (s : State) :
    happen it (takePresented l s) = takePresented l (happen it s) := by
  unfold happen
  split <;> rfl

theorem CutOff.takePresented {it : Item} {s u : State} (h : CutOff it s u) (l : List Request) :
    CutOff it (takePresented l s) (takePresented l u) := by
  rcases h with rfl | rfl | ⟨bs, k, he, rfl⟩
  · exact .inl rfl
  · exact .inr (.inl rfl)
  · exact .inr (.inr ⟨bs, k, he, rfl⟩)

theorem heard_refl (s : State) : Heard s s := Since.refl fun _ => rfl

theorem Heard.happen {s t : State} (h : Heard s t) (it : Item) : Heard s (happen it t) := by
  unfold Heard
  rw [← happen_takePresented]
  exact Since.happen h it

theorem Heard.fail {s t u : State} (h : Heard s t) {it : Item} (hu : CutOff it t u) :
    Heard s (endOp .transport (applyEdits it.onFail u)) :=
  Since.fail h (hu.takePresented [])

theorem heard_keptOps (s : State) : KeptOps (Heard s) where
  race _ h := h
  configuration _ _ h := h
  latch _ _ _ _ _ _ _ h := h
  tick _ h := tick_keeps h (fun _ it _ _ _ => h.happen it) (fun _ _ _ _ _ hu => h.fail hu) h

/-- Serving what is presented either runs a host operation, whose events are heard, or leaves the receiver UNDEFINED. -/
theorem serve_heard {r : Request} {s t : State} (hu : s.panel.regs = none) (h : serve r s = .next t)
    (hk : t.panel.regs ≠ none) : Heard s t := by
  unfold serve at h
  split at h
  · rename_i i _
    cases hi : isHostop i with
    | false => exact absurd (exec_undefined hi hu h) hk
    | true =>
      obtain ⟨a, ha, -⟩ := hostop_performs hi s
      exact (heard_keptOps s).exec ha h (heard_refl s)
  · rename_i e _
    cases e with
    | foreignOpcode c data => exact absurd (arriveFrame_undefined hu h) hk
    | emptyFrame | pixelLength _ | windowLength _ => cases h

/-- A step that leads out of UNDEFINED is heard: it was no arrival of bytes at the receiver. -/
theorem step_heard {s t : State} (hu : s.panel.regs = none) (h : step s = .next t) (hk : t.panel.regs ≠ none) :
    Heard s t := by
  cases hp : s.presented with
  | nil =>
    rcases step_cases h hp with rfl | ⟨m, rest, -, hm⟩
    · exact (heard_keptOps s).tick s (heard_refl s)
    · exact (heard_keptOps s).move (fun _ _ h => h) (fun _ _ _ h => h) (fun _ _ _ h => h) (fun _ _ h => h) hm
        (heard_refl s)
  | cons r rest =>
    have hr : s.race = false := by
      cases hr : s.race with
      | false => rfl
      | true => rw [step_raced hr] at h; cases h
    cases hb : s.busy with
    | true =>
      rw [step_presented_waits hr hb (by simp [hp])] at h
      cases h
      exact (heard_keptOps s).tick s (heard_refl s)
    | false =>
      rw [step_presented ⟨hr, hb⟩ hp] at h
      exact serve_heard (s := takePresented rest s) hu h hk

/-! ### The pulse that leads out of UNDEFINED -/

theorem panelHear_undefined {cfg : Config} {now : Nat} {dc : PinState} {bs : List Byte} {low : Option Nat} :
    panelHear cfg now dc bs ⟨low, none⟩ = ⟨low, none⟩ := by
  have hcommands : bs.foldl (fun p c => panelCommand cfg now c p) ⟨low, none⟩ = ⟨low, none⟩ := by
    induction bs with
    | nil => rfl
    | cons b bs ih => exact ih
  unfold panelHear
  split
  · exact hcommands
  · exact panelData_none cfg bs low
  · split <;> rfl

/-- Everything an event can do to an UNDEFINED receiver: the end of a long enough pulse resets it, any other rise only
ends the pulse, the first fall starts one, and nothing else is noticed. -/
theorem panelSee_undefined (cfg : Config) (now : Nat) (dc : PinState) (e : Event) (low : Option Nat) :
    (e = .pin .reset .high ∧ ((∃ fall, low = some fall ∧ fall + micros cfg.resetSettleMs ≤ now) ∨
      panelSee cfg now dc e ⟨low, none⟩ = ⟨none, none⟩)) ∨
    (e ≠ .pin .reset .high ∧ ((e = .pin .reset .low ∧ panelSee cfg now dc e ⟨low, none⟩ = ⟨some now, none⟩) ∨
      panelSee cfg now dc e ⟨low, none⟩ = ⟨low, none⟩)) := by
  cases e with
  | xfer bs => exact .inr ⟨by simp, .inr panelHear_undefined⟩
  | pin sig lvl =>
    cases sig with
    | dc | backlight => exact .inr ⟨by simp, .inr rfl⟩
    | reset =>
      cases lvl with
      | low =>
        refine .inr ⟨by simp, ?_⟩
        cases low with
        | none => exact .inl ⟨rfl, rfl⟩
        | some fall => exact .inr rfl
      | high =>
        refine .inl ⟨rfl, ?_⟩
        cases low with
        | none => exact .inr rfl
        | some fall =>
          by_cases h : fall + micros cfg.resetSettleMs ≤ now
          · exact .inl ⟨fall, rfl, h⟩
          · exact .inr (by simp [panelSee, panelReset, h])
  | wait _ | pinOut _ | spiOpen _ _ | spiClk _ | spiMode _ => exact .inr ⟨by simp, .inr rfl⟩

/-- Where the fall that a receiver keeps comes from: it was kept at the start or is one of the events, and no rise has
come since. -/
def FallKept (low : Option Nat) (before : List (Nat × Event)) (fall : Nat) : Prop :=
  (low = some fall ∧ ∀ e, e ∈ before → e.2 ≠ .pin .reset .high) ∨
    ∃ a b, before = a ++ (fall, Event.pin .reset .low) :: b ∧ ∀ e, e ∈ b → e.2 ≠ .pin .reset .high

/-- The fall that is kept after an event was kept before it, if the event is no rise, or is the event. -/
theorem FallKept.cons {cfg : Config} {dc : PinState} {low low' : Option Nat} {before : List (Nat × Event)} {fall : Nat}
    {e : Nat × Event} (h : FallKept low' before fall) (he : panelSee cfg e.1 dc e.2 ⟨low, none⟩ = ⟨low', none⟩) :
    FallKept low (e :: before) fall := by
  rcases h with ⟨hlow, hbefore⟩ | ⟨a, b, rfl, hb⟩
  · subst hlow
    rcases panelSee_undefined cfg e.1 dc e.2 low with ⟨hrise, h⟩ | ⟨hne, ⟨hlow, h⟩ | h⟩
    · rcases h with ⟨f, rfl, h⟩ | h
      · simp [hrise, panelSee, panelReset, h] at he
      · simp [h] at he
    · obtain ⟨now, ev⟩ := e
      obtain rfl : now = fall := by simpa [h] using he
      obtain rfl : ev = .pin .reset .low := hlow
      exact .inr ⟨[], before, rfl, hbefore⟩
    · obtain rfl : low = some fall := by simpa [h] using he
      exact .inl ⟨rfl, List.forall_mem_cons.mpr ⟨hne, hbefore⟩⟩
  · exact .inr ⟨e :: a, b, rfl, hb⟩

/-- Events that lead a receiver out of UNDEFINED contain the end of a long enough pulse, at which it was still UNDEFINED
and kept the pulse's fall. -/
theorem hear_out_of_undefined {cfg : Config} {es : List (Nat × Event)} {pins : Pins} {low : Option Nat}
    (h : (hear cfg es (pins, ⟨low, none⟩)).2.regs ≠ none) :
    ∃ before later fall rise, es = before ++ (rise, Event.pin .reset .high) :: later ∧
      (hear cfg before (pins, ⟨low, none⟩)).2 = ⟨some fall, none⟩ ∧ fall + micros cfg.resetSettleMs ≤ rise ∧
      FallKept low before fall := by
  induction es generalizing pins low with
  | nil => exact absurd rfl h
  | cons e es ih =>
    cases hsee : panelSee cfg e.1 pins.dc e.2 ⟨low, none⟩ with
    | mk low' regs =>
      cases regs with
      | none =>
        have hcons : ∀ l, hear cfg (e :: l) (pins, ⟨low, none⟩) = hear cfg l (pinsAfter e.2 pins, ⟨low', none⟩) :=
          fun l => by rw [← hsee]; rfl
        rw [hcons] at h
        obtain ⟨before, later, fall, rise, rfl, hbefore, hlong, hfall⟩ := ih h
        exact ⟨e :: before, later, fall, rise, rfl, (congrArg Prod.snd (hcons before)).trans hbefore, hlong,
          hfall.cons hsee⟩
      | some r =>
        rcases panelSee_undefined cfg e.1 pins.dc e.2 low with ⟨hrise, ⟨fall, rfl, hlong⟩ | hq⟩ | ⟨-, ⟨-, hq⟩ | hq⟩
        · obtain ⟨now, ev⟩ := e
          obtain rfl : ev = .pin .reset .high := hrise
          exact ⟨[], es, fall, now, rfl, rfl, hlong, .inl ⟨rfl, by simp⟩⟩
        all_goals rw [hsee] at hq; cases hq

/-- Settles O58: such a step is heard, and its events contain the end of a long enough pulse. -/
theorem undefinedUntilResetPulse : Obligations.UndefinedUntilResetPulse := by
  intro s t hu h hk
  obtain ⟨-, -, es, htrace, hsorted, htimes, hheard⟩ := step_heard hu h hk
  obtain ⟨-, hpanel⟩ := hheard trivial
  have hregs : s.panel = ⟨s.panel.lowSince, none⟩ := by rw [← hu]
  have hout : (hear s.cfg es (s.pins, ⟨s.panel.lowSince, none⟩)).2.regs ≠ none := by
    rw [← hregs]
    exact (congrArg (fun q => q.2.regs) hpanel) ▸ hk
  obtain ⟨before, later, fall, rise, rfl, hbefore, hlong, hfall⟩ := hear_out_of_undefined hout
  exact ⟨before, later, fall, rise, ⟨htrace, hpanel, hsorted, htimes⟩, hregs ▸ hbefore, hlong, hfall⟩

end Sys2Proof.Machine
end

section
/-! PROOFS, 44_wire_commands.md R162 to R174. What each command byte and data byte does to a known receiver, and the
rows of the opcode table that reach it directly. -/

namespace Sys2Proof.Machine

open Sys2Proof.Safety

/-! ### The frame that ends -/

/-- A frame that has had its data bytes, or writes no register with them, leaves the receiver as it was (log 26). -/
theorem endFrame_eq_self {r : PanelRegs} (h1 : ¬((r.cmd = some 0x36#8 ∨ r.cmd = some 0x3A#8) ∧ r.idx = 0))
    (h4 : ¬((r.cmd = some 0x2A#8 ∨ r.cmd = some 0x2B#8) ∧ r.idx < 4)) : endFrame r = r := by
  unfold endFrame
  split
  · rename_i hc
    exact if_neg fun hi => h1 ⟨.inl (cmd_eq_of_toNat hc), Nat.lt_one_iff.mp hi⟩
  · rename_i hc
    exact if_neg fun hi => h1 ⟨.inr (cmd_eq_of_toNat hc), Nat.lt_one_iff.mp hi⟩
  · rename_i hc
    exact if_neg fun hi => h4 ⟨.inl (cmd_eq_of_toNat hc), hi⟩
  · rename_i hc
    exact if_neg fun hi => h4 ⟨.inr (cmd_eq_of_toNat hc), hi⟩
  · rfl

/-! ### Command bytes, in time -/

section Command

variable {cfg : Config} {now : Nat} {r : PanelRegs} (ht : r.tOk ≤ now)

theorem startFrame_mode (c : Byte) (r : PanelRegs) : (startFrame c r).mode = r.mode := by
  obtain ⟨-, hmode, -⟩ := endFrame_gram r
  exact hmode

include ht

theorem takeCommand_sleepOut : takeCommand cfg now 0x11#8 r =
    some { startFrame 0x11#8 r with mode := .awake, tOk := now + micros cfg.sleepOutMs } := by
  rw [takeCommand, if_neg (by omega)]
  rfl

theorem takeCommand_memWrite : takeCommand cfg now 0x2C#8 r = takeMemWrite cfg (startFrame 0x2C#8 r) := by
  rw [takeCommand, if_neg (by omega)]
  rfl

variable (hm : r.mode = .awake)

include hm

theorem takeCommand_displayOn :
    takeCommand cfg now 0x29#8 r = some { startFrame 0x29#8 r with dispOn := some true } := by
  rw [takeCommand, if_neg (by omega)]
  exact if_pos ((startFrame_mode _ r).trans hm)

theorem takeCommand_colAddrSet :
    takeCommand cfg now 0x2A#8 r = some { startFrame 0x2A#8 r with xs := none, xe := none, ptr := .none } := by
  rw [takeCommand, if_neg (by omega)]
  exact if_pos ((startFrame_mode _ r).trans hm)

theorem takeCommand_rowAddrSet :
    takeCommand cfg now 0x2B#8 r = some { startFrame 0x2B#8 r with ys := none, ye := none, ptr := .none } := by
  rw [takeCommand, if_neg (by omega)]
  exact if_pos ((startFrame_mode _ r).trans hm)

theorem takeCommand_memAccessCtl : takeCommand cfg now 0x36#8 r = some (startFrame 0x36#8 r) := by
  rw [takeCommand, if_neg (by omega)]
  exact if_pos ((startFrame_mode _ r).trans hm)

theorem takeCommand_pixelFormat : takeCommand cfg now 0x3A#8 r = some (startFrame 0x3A#8 r) := by
  rw [takeCommand, if_neg (by omega)]
  exact if_pos ((startFrame_mode _ r).trans hm)

end Command

/-- MEM_WRITE starts at the window's first position (R170). -/
theorem takeMemWrite_eq {cfg : Config} {r : PanelRegs} {xs xe ys ye : Word16} (hm : r.mode = .awake)
    (hf : r.colmod = some cfg.colmodByte) (hxs : r.xs = some xs) (hxe : r.xe = some xe) (hys : r.ys = some ys)
    (hye : r.ye = some ye) : takeMemWrite cfg r = some { r with ptr := .pos xs.toNat ys.toNat, latch := none } := by
  simp [takeMemWrite, hm, hf, hxs, hxe, hys, hye]

/-! ### Data bytes -/

section Data

variable {cfg : Config} {d : Byte} {r : PanelRegs}

theorem takeData_no_frame (hc : r.cmd = none) : takeData cfg d r = none := by
  simp [takeData, hc]

theorem takeData_memAccessCtl (hc : r.cmd = some 0x36#8) (hi : r.idx = 0) :
    takeData cfg d r = some { r with madctl := some d, idx := 1 } := by
  simp [takeData, hc, dataMemAccessCtl, hi]

theorem takeData_pixelFormat (hc : r.cmd = some 0x3A#8) (hi : r.idx = 0) :
    takeData cfg d r = some { r with colmod := some d, idx := 1 } := by
  simp [takeData, hc, dataPixelFormat, hi]

theorem takeData_keepArg (hc : r.cmd = some 0x2A#8 ∨ r.cmd = some 0x2B#8) (hi : r.idx < 3) :
    takeData cfg d r = some (keepArg d r) := by
  rcases hc with hc | hc
  · simp [takeData, hc, dataColAddrSet, hi]
  · simp [takeData, hc, dataRowAddrSet, hi]

theorem takeData_lastColumn {d0 d1 d2 : Byte} (hc : r.cmd = some 0x2A#8) (hi : r.idx = 3) (ha : r.args = [d0, d1, d2]) :
    takeData cfg d r =
      if (word16 d0 d1).toNat ≤ (word16 d2 d).toNat ∧ (word16 d2 d).toNat < cfg.width then
        some { keepArg d r with xs := some (word16 d0 d1), xe := some (word16 d2 d) }
      else none := by
  simp [takeData, hc, dataColAddrSet, hi, ha]

theorem takeData_lastRow {d0 d1 d2 : Byte} (hc : r.cmd = some 0x2B#8) (hi : r.idx = 3) (ha : r.args = [d0, d1, d2]) :
    takeData cfg d r =
      if (word16 d0 d1).toNat ≤ (word16 d2 d).toNat ∧ (word16 d2 d).toNat < cfg.height then
        some { keepArg d r with ys := some (word16 d0 d1), ye := some (word16 d2 d) }
      else none := by
  simp [takeData, hc, dataRowAddrSet, hi, ha]

theorem takeData_foreign_format (hc : r.cmd = some 0x2C#8) (hf : r.colmod ≠ some cfg.colmodByte) :
    takeData cfg d r = none := by
  simp [takeData, hc, dataMemWrite, hf]

variable (hc : r.cmd = some 0x2C#8) (hf : r.colmod = some cfg.colmodByte)

include hc hf

theorem takeData_highByte (hl : r.latch = none) :
    takeData cfg d r = some { r with latch := some d, idx := r.idx + 1 } := by
  simp [takeData, hc, dataMemWrite, hf, hl]

theorem takeData_lowByte {h : Byte} {x y : Nat} {xs xe ye : Word16} (hl : r.latch = some h) (hp : r.ptr = .pos x y)
    (hxs : r.xs = some xs) (hxe : r.xe = some xe) (hye : r.ye = some ye) :
    takeData cfg d r = some { r with
      latch := none, idx := r.idx + 1, gram := r.gram.set (posIndex cfg x y) (word16 h d),
      ptr := nextPtr xs.toNat xe.toNat ye.toNat x y } := by
  simp [takeData, hc, dataMemWrite, hf, hl, takePixel, hp, hxs, hxe, hye]

theorem takeData_lowByte_pastEnd {h : Byte} (hl : r.latch = some h) (hp : r.ptr = .pastEnd) :
    takeData cfg d r = none := by
  simp [takeData, hc, dataMemWrite, hf, hl, takePixel, hp]

end Data

/-! ### Whole data phases -/

section Phase

variable {cfg : Config} {ds : List Byte} {low : Option Nat} {r : PanelRegs}

theorem panelData_taken {d : Byte} {r' : PanelRegs} (h : takeData cfg d r = some r') :
    panelData cfg (d :: ds) ⟨low, some r⟩ = panelData cfg ds ⟨low, some r'⟩ := by
  rw [panelData_cons, h]

theorem panelData_refused {d : Byte} (h : takeData cfg d r = none) :
    panelData cfg (d :: ds) ⟨low, some r⟩ = ⟨low, none⟩ := by
  rw [panelData_cons, h, panelData_none]

/-- The first three data bytes of an address-set frame are kept. -/
theorem panelData_keepArgs (hc : r.cmd = some 0x2A#8 ∨ r.cmd = some 0x2B#8) (hi : r.idx + ds.length ≤ 3) :
    panelData cfg ds ⟨low, some r⟩ =
      ⟨low, some { r with args := r.args ++ ds, idx := r.idx + ds.length }⟩ := by
  induction ds generalizing r with
  | nil => simp
  | cons d ds ih =>
    rw [List.length_cons] at hi
    rw [panelData_taken (takeData_keepArg hc (by omega)), ih (r := keepArg d r) hc (by simp only [keepArg]; omega)]
    simp [keepArg, Nat.add_assoc, Nat.add_comm 1]

theorem panelData_threeArgs (hc : r.cmd = some 0x2A#8 ∨ r.cmd = some 0x2B#8) (hi : r.idx = 0) (ha : r.args = [])
    (d0 d1 d2 : Byte) : panelData cfg [d0, d1, d2] ⟨low, some r⟩ =
      ⟨low, some { r with args := [d0, d1, d2], idx := 3 }⟩ := by
  simpa [hi, ha] using panelData_keepArgs (ds := [d0, d1, d2]) hc (by simp [hi])

theorem windowBytes_eq (a b : Word16) : windowBytes a b = [hiByte a, loByte a, hiByte b] ++ [loByte b] := rfl

/-- Four data bytes of a column frame set the pair, or make the receiver UNDEFINED (R168). -/
theorem panelData_column (hc : r.cmd = some 0x2A#8) (hi : r.idx = 0) (ha : r.args = []) (a b : Word16) :
    panelData cfg (windowBytes a b) ⟨low, some r⟩ =
      ⟨low, if a.toNat ≤ b.toNat ∧ b.toNat < cfg.width then
        some { r with xs := some a, xe := some b, idx := 4, args := windowBytes a b } else none⟩ := by
  rw [windowBytes_eq, panelData_append, panelData_threeArgs (.inl hc) hi ha, panelData_cons,
    takeData_lastColumn (r := { r with args := _, idx := 3 }) hc rfl rfl, word16_split, word16_split]
  rfl

/-- Four data bytes of a row frame set the pair, or make the receiver UNDEFINED (R169). -/
theorem panelData_row (hc : r.cmd = some 0x2B#8) (hi : r.idx = 0) (ha : r.args = []) (a b : Word16) :
    panelData cfg (windowBytes a b) ⟨low, some r⟩ =
      ⟨low, if a.toNat ≤ b.toNat ∧ b.toNat < cfg.height then
        some { r with ys := some a, ye := some b, idx := 4, args := windowBytes a b } else none⟩ := by
  rw [windowBytes_eq, panelData_append, panelData_threeArgs (.inr hc) hi ha, panelData_cons,
    takeData_lastRow (r := { r with args := _, idx := 3 }) hc rfl rfl, word16_split, word16_split]
  rfl

/-- A data byte of an address-set frame that leaves the receiver known is counted, and is one of the first four. -/
theorem takeData_address_idx {d : Byte} {r' : PanelRegs} (hc : r.cmd = some 0x2A#8 ∨ r.cmd = some 0x2B#8)
    (h : takeData cfg d r = some r') : r.idx ≤ 3 ∧ r'.idx = r.idx + 1 ∧ r'.cmd = r.cmd := by
  rcases takeData_cases h with ⟨hc', -⟩ | ⟨hc', -⟩ | ⟨-, hd⟩ | ⟨-, hd⟩ | ⟨hc', -⟩
  case inr.inr.inl =>
    rcases dataColAddrSet_cases hd with ⟨hi, rfl⟩ | ⟨_, _, _, hi, -, -, -, rfl⟩
    · exact ⟨hi.le, rfl, rfl⟩
    · exact ⟨hi.le, rfl, rfl⟩
  case inr.inr.inr.inl =>
    rcases dataRowAddrSet_cases hd with ⟨hi, rfl⟩ | ⟨_, _, _, hi, -, -, -, rfl⟩
    · exact ⟨hi.le, rfl, rfl⟩
    · exact ⟨hi.le, rfl, rfl⟩
  all_goals simp [hc'] at hc

/-- A receiver that is still known in an address-set frame has had no more than four data bytes. -/
theorem length_le_of_address {r' : PanelRegs} (hc : r.cmd = some 0x2A#8 ∨ r.cmd = some 0x2B#8) (hi : r.idx ≤ 4)
    (h : (panelData cfg ds ⟨low, some r⟩).regs = some r') : r.idx + ds.length ≤ 4 := by
  induction ds generalizing r with
  | nil => exact hi
  | cons d ds ih =>
    cases ht : takeData cfg d r with
    | none => simp [panelData_refused ht] at h
    | some q =>
      obtain ⟨hle, hidx, hcmd⟩ := takeData_address_idx hc ht
      rw [panelData_taken ht] at h
      have := ih (r := q) (by rwa [hcmd]) (by omega) h
      rw [List.length_cons]
      omega

/-- A fifth data byte makes the receiver UNDEFINED. -/
theorem panelData_address_overfull (hc : r.cmd = some 0x2A#8 ∨ r.cmd = some 0x2B#8) (hi : r.idx = 0)
    (hl : 4 < ds.length) : panelData cfg ds ⟨low, some r⟩ = ⟨low, none⟩ := by
  have hnone : (panelData cfg ds ⟨low, some r⟩).regs = none := by
    cases h : (panelData cfg ds ⟨low, some r⟩).regs with
    | none => rfl
    | some r' =>
      have := length_le_of_address hc (by omega) h
      omega
  rw [← hnone]
  rfl

/-- A whole pixel word with no byte latched lands at the pointer, which goes on (R171, R172). -/
theorem panelData_pixel {x y : Nat} {xs xe ye : Word16} (hc : r.cmd = some 0x2C#8)
    (hf : r.colmod = some cfg.colmodByte) (hl : r.latch = none) (hp : r.ptr = .pos x y) (hxs : r.xs = some xs)
    (hxe : r.xe = some xe) (hye : r.ye = some ye) (v : Word16) :
    panelData cfg (bytes16 v) ⟨low, some r⟩ = ⟨low, some { r with
      gram := r.gram.set (posIndex cfg x y) v, idx := r.idx + 2,
      ptr := nextPtr xs.toNat xe.toNat ye.toNat x y }⟩ := by
  rw [bytes16, panelData_taken (takeData_highByte hc hf hl), panelData_taken
    (takeData_lowByte (r := { r with latch := some (hiByte v), idx := r.idx + 1 }) hc hf rfl hp hxs hxe hye),
    panelData_nil, word16_split, ← hl]

end Phase

/-! ### The rows at a known receiver -/

section Rows

variable {s : State} {r : PanelRegs} (hr : s.race = false) (hs : s.panel.regs = some r)

include hr hs

theorem arriveFrame_known (c : Byte) (data : List Byte) : arriveFrame c data s =
    .next (withPanel s (panelData s.cfg data ⟨s.panel.lowSince, takeCommand s.cfg (arrival s) c r⟩)) := by
  rw [arriveFrame_runs hr, panelCommand, hs]
  rfl

/-- A command byte that is taken, then its data bytes. -/
theorem arriveFrame_taken {c : Byte} {data : List Byte} {q : PanelRegs} {p : Panel}
    (hq : takeCommand s.cfg (arrival s) c r = some q) (hp : panelData s.cfg data ⟨s.panel.lowSince, some q⟩ = p) :
    arriveFrame c data s = .next (withPanel s p) := by
  rw [arriveFrame_known hr hs, hq, hp]

theorem arriveData_taken {data : List Byte} {p : Panel} (hp : panelData s.cfg data ⟨s.panel.lowSince, some r⟩ = p) :
    arriveData data s = .next (withPanel s p) := by
  rw [arriveData_runs hr, ← hp, ← hs]

end Rows

/-- Settles O51: SLEEP_OUT takes no data byte, and the five cases are the branches of `endFrame`. -/
theorem sleepOutWakes : Obligations.SleepOutWakes := by
  refine ⟨fun s r d ds hr hs ht => ⟨?_, ?_⟩, fun r => ⟨fun hc hi => ?_, fun hc hi => ?_, fun hc hi => ?_,
    fun hc hi => ?_, fun ⟨h1, h4⟩ => endFrame_eq_self h1 h4⟩⟩
  · exact arriveFrame_taken hr hs (takeCommand_sleepOut ht) rfl
  · exact arriveFrame_taken hr hs (takeCommand_sleepOut ht) (panelData_refused rfl)
  all_goals simp [endFrame, hc, hi]

/-- Settles O52: the command byte starts the frame, the one data byte is stored, and the next is refused. -/
theorem registerCommandsWrite : Obligations.RegisterCommandsWrite := by
  intro s r d d' ds hr hs hm ht
  refine ⟨?_, ?_, ?_, ?_, ?_, ?_, ?_, ?_⟩
  · exact arriveFrame_taken hr hs (takeCommand_displayOn ht hm) rfl
  · exact arriveFrame_taken hr hs (takeCommand_displayOn ht hm) (panelData_refused rfl)
  · exact arriveFrame_taken hr hs (takeCommand_memAccessCtl ht hm) rfl
  · exact arriveFrame_taken hr hs (takeCommand_memAccessCtl ht hm) (panelData_taken (takeData_memAccessCtl rfl rfl))
  · exact arriveFrame_taken hr hs (takeCommand_memAccessCtl ht hm)
      ((panelData_taken (takeData_memAccessCtl rfl rfl)).trans (panelData_refused rfl))
  · exact arriveFrame_taken hr hs (takeCommand_pixelFormat ht hm) rfl
  · exact arriveFrame_taken hr hs (takeCommand_pixelFormat ht hm) (panelData_taken (takeData_pixelFormat rfl rfl))
  · exact arriveFrame_taken hr hs (takeCommand_pixelFormat ht hm)
      ((panelData_taken (takeData_pixelFormat rfl rfl)).trans (panelData_refused rfl))

/-- Settles O53: the first three data bytes are kept, the fourth makes the pair, the fifth is refused. -/
theorem addressSetStores : Obligations.AddressSetStores := by
  intro s r a b ds hr hs hm ht
  have hcolumn := takeCommand_colAddrSet (cfg := s.cfg) ht hm
  have hrow := takeCommand_rowAddrSet (cfg := s.cfg) ht hm
  refine ⟨?_, ?_, fun hl => ⟨?_, ?_⟩, fun hl => ⟨?_, ?_⟩⟩
  · exact arriveFrame_taken hr hs hcolumn (panelData_column rfl rfl rfl a b)
  · exact arriveFrame_taken hr hs hrow (panelData_row rfl rfl rfl a b)
  · refine arriveFrame_taken hr hs hcolumn ((panelData_keepArgs (.inl rfl) ?_).trans ?_)
    · simp only [startFrame]; omega
    · simp [startFrame]
  · refine arriveFrame_taken hr hs hrow ((panelData_keepArgs (.inr rfl) ?_).trans ?_)
    · simp only [startFrame]; omega
    · simp [startFrame]
  · exact arriveFrame_taken hr hs hcolumn (panelData_address_overfull (.inl rfl) rfl hl)
  · exact arriveFrame_taken hr hs hrow (panelData_address_overfull (.inr rfl) rfl hl)

/-- Settles O56: the four bytes of a WINDOW are the whole data phase of the frame. -/
theorem windowBytesLand : Obligations.WindowBytesLand := by
  intro s r a b hr hs hi ha
  exact ⟨fun hc => arriveData_taken hr hs (panelData_column hc hi ha a b),
    fun hc => arriveData_taken hr hs (panelData_row hc hi ha a b)⟩

/-- Settles O54: a command byte that is taken has found what R170 asks for, and the data bytes follow it. -/
theorem memWriteStartsAtWindow : Obligations.MemWriteStartsAtWindow := by
  intro s r hr hs ht
  refine ⟨fun xs xe ys ye hm hf hxs hxe hys hye => ?_, fun hn data => ?_, fun t data h => ?_⟩
  · exact arriveFrame_taken hr hs ((takeCommand_memWrite ht).trans
      (takeMemWrite_eq ((startFrame_mode _ r).trans hm) hf hxs hxe hys hye)) rfl
  · have hnone : takeCommand s.cfg (arrival s) 0x2C#8 r = none := by
      rw [takeCommand_memWrite ht, Option.eq_none_iff_forall_ne_some]
      intro r' h
      obtain ⟨hm, hf, xs, xe, ys, ye, hxs, hxe, hys, hye, -⟩ := takeMemWrite_cases h
      refine hn ⟨(startFrame_mode _ r).symm.trans hm, hf, ?_, ?_, ?_, ?_⟩
      · exact Option.isSome_of_eq_some hxs
      · exact Option.isSome_of_eq_some hxe
      · exact Option.isSome_of_eq_some hys
      · exact Option.isSome_of_eq_some hye
    refine (arriveFrame_known hr hs 0x2C#8 data).trans ?_
    rw [hnone, panelData_none]
  · cases (arriveFrame_runs hr 0x2C#8 []).symm.trans h
    exact arriveFrame_runs hr 0x2C#8 data

/-- Settles O55: the first byte is latched or ends a pixel, and then the second. -/
theorem pixelLandsAndAdvances : Obligations.PixelLandsAndAdvances := by
  intro s r v h x y xs xe ye hr hs hc
  refine ⟨fun hf => arriveData_taken hr hs (panelData_refused (takeData_foreign_format hc hf)),
    fun hf hxs hxe hye => ⟨fun hp hl => ⟨arriveData_taken hr hs (panelData_pixel hc hf hl hp hxs hxe hye v),
      Memory.get_set_same _ v _, fun i hi => Memory.get_set_other hi v _⟩,
    fun hp hl => arriveData_taken hr hs ?_, fun hp => arriveData_taken hr hs ?_⟩⟩
  · exact (panelData_taken (takeData_lowByte hc hf hl hp hxs hxe hye)).trans
      (panelData_taken (takeData_highByte hc hf rfl))
  · cases hl : r.latch with
    | none =>
      exact (panelData_taken (takeData_highByte hc hf hl)).trans
        (panelData_refused (takeData_lowByte_pastEnd hc hf rfl hp))
    | some h => exact panelData_refused (takeData_lowByte_pastEnd hc hf hl hp)

/-! ### Where the receiver becomes UNDEFINED -/

/-- A command byte that no known receiver takes makes it UNDEFINED. -/
theorem panelCommand_refused {cfg : Config} {now : Nat} {c : Byte} {low : Option Nat} {r : PanelRegs}
    (h : ∀ r', takeCommand cfg now c r ≠ some r') : panelCommand cfg now c ⟨low, some r⟩ = ⟨low, none⟩ := by
  rw [panelCommand_some, Option.eq_none_iff_forall_ne_some.mpr h]

/-- A command byte that is none of the seven (R174). -/
def ForeignByte (c : Byte) : Prop :=
  c ≠ 0x11#8 ∧ c ≠ 0x29#8 ∧ c ≠ 0x2A#8 ∧ c ≠ 0x2B#8 ∧ c ≠ 0x2C#8 ∧ c ≠ 0x36#8 ∧ c ≠ 0x3A#8

theorem takeCommand_foreign {cfg : Config} {now : Nat} {c : Byte} {r r' : PanelRegs} (hc : ForeignByte c) :
    takeCommand cfg now c r ≠ some r' := by
  obtain ⟨h1, h2, h3, h4, h5, h6, h7⟩ := hc
  intro h
  rcases takeCommand_cases h with ⟨-, ⟨hc, -⟩ | ⟨-, ⟨hc, -⟩ | ⟨hc, -⟩ | ⟨hc, -⟩ | ⟨hc, -⟩ | ⟨hc | hc, -⟩⟩⟩ <;>
    contradiction

theorem decode_foreign {c : Byte} (hc : ForeignByte c) (ds : List Byte) :
    decode (.wire (c :: ds)) = .error (.foreignOpcode c ds) := by
  obtain ⟨h1, h2, h3, h4, h5, h6, h7⟩ := hc
  change decodeFrame c ds = _
  unfold decodeFrame
  split
  case h_8 => rfl
  all_goals
    rename_i h
    have := eq_ofNat_of_toNat h
    contradiction

/-- A foreign frame that is presented makes the receiver UNDEFINED by a step (log 21). -/
theorem step_foreign {c : Byte} {ds : List Byte} {rest : List Request} {s : State} (hc : ForeignByte c) (hs : Idle s)
    (hp : s.presented = .wire (c :: ds) :: rest) : ∃ t, step s = .next t ∧ t.panel.regs = none := by
  have hstep : step s = .next (withPanel (takePresented rest s)
      (panelData s.cfg ds (panelCommand s.cfg (arrival s) c s.panel))) := by
    rw [step_presented hs hp, serve, decode_foreign hc]
    exact arriveFrame_runs (s := takePresented rest s) hs.1 c ds
  have hundefined : (panelCommand s.cfg (arrival s) c s.panel).regs = none := by
    cases hk : s.panel.regs with
    | none => rw [panelCommand_undefined hk, hk]
    | some r => simpa [panelCommand, hk] using Option.eq_none_iff_forall_ne_some.mpr fun _ => takeCommand_foreign hc
  exact ⟨_, hstep, (congrArg Panel.regs (panelData_undefined hundefined)).trans hundefined⟩

/-- Settles O57: the branches of the RESET line, and of a command byte that leaves the receiver known none is met. -/
theorem receiverUndefinedCases : Obligations.ReceiverUndefinedCases := by
  refine ⟨fun cfg now t dc regs => ⟨rfl, rfl, rfl, fun h => ?_, fun h => ?_⟩, fun cfg now c d r low =>
    ⟨fun ht => ?_, fun hm hc => ?_, fun hc => ⟨?_, fun s ds rest hs hp => step_foreign hc hs hp⟩, fun hc => ?_⟩⟩
  · exact if_neg (Nat.not_le_of_lt h)
  · exact if_pos h
  · refine panelCommand_refused fun r' h => ?_
    obtain ⟨hle, -⟩ := takeCommand_cases h
    omega
  · refine panelCommand_refused fun r' h => ?_
    rcases takeCommand_cases h with ⟨-, ⟨hc', -⟩ | ⟨hawake, -⟩⟩
    · exact hc hc'
    · simp [startFrame_mode, hm] at hawake
  · exact panelCommand_refused fun _ => takeCommand_foreign hc
  · exact panelData_refused (takeData_no_frame hc)

end Sys2Proof.Machine
end

section
/-! PROOFS, 44_wire_commands.md R171, R175. Whole frames at the receiver, the pixel stream over the full window, what
PRESENT leaves on the panel. -/

namespace Sys2Proof.Machine

open Sys2Proof.Safety

/-! ### Whole frames at the receiver -/

/-- The receiver after a column frame that it has taken (R168). -/
def afterColumns (a b : Word16) (r : PanelRegs) : PanelRegs :=
  { endFrame r with
    xs := some a, xe := some b, ptr := .none, cmd := some 0x2A#8, idx := 4, args := windowBytes a b, latch := none }

/-- The receiver after a row frame that it has taken (R169). -/
def afterRows (a b : Word16) (r : PanelRegs) : PanelRegs :=
  { endFrame r with
    ys := some a, ye := some b, ptr := .none, cmd := some 0x2B#8, idx := 4, args := windowBytes a b, latch := none }

theorem endFrame_afterColumns (a b : Word16) (r : PanelRegs) : endFrame (afterColumns a b r) = afterColumns a b r := rfl

section Frames

variable {cfg : Config} {now : Nat} {low : Option Nat} {r : PanelRegs} (ht : r.tOk ≤ now) (hm : r.mode = .awake)

include ht hm

theorem panelFrame_memAccessCtl (d : Byte) : panelData cfg [d] (panelCommand cfg now 0x36#8 ⟨low, some r⟩) =
    ⟨low, some { endFrame r with madctl := some d, cmd := some 0x36#8, idx := 1, args := [], latch := none }⟩ := by
  rw [panelCommand_some, takeCommand_memAccessCtl ht hm]
  exact panelData_taken (takeData_memAccessCtl rfl rfl)

theorem panelFrame_pixelFormat (d : Byte) : panelData cfg [d] (panelCommand cfg now 0x3A#8 ⟨low, some r⟩) =
    ⟨low, some { endFrame r with colmod := some d, cmd := some 0x3A#8, idx := 1, args := [], latch := none }⟩ := by
  rw [panelCommand_some, takeCommand_pixelFormat ht hm]
  exact panelData_taken (takeData_pixelFormat rfl rfl)

theorem panelFrame_column {a b : Word16} (hab : a.toNat ≤ b.toNat ∧ b.toNat < cfg.width) :
    panelData cfg (windowBytes a b) (panelCommand cfg now 0x2A#8 ⟨low, some r⟩) = ⟨low, some (afterColumns a b r)⟩ := by
  rw [panelCommand_some, takeCommand_colAddrSet ht hm, panelData_column rfl rfl rfl, if_pos hab]
  rfl

theorem panelFrame_row {a b : Word16} (hab : a.toNat ≤ b.toNat ∧ b.toNat < cfg.height) :
    panelData cfg (windowBytes a b) (panelCommand cfg now 0x2B#8 ⟨low, some r⟩) = ⟨low, some (afterRows a b r)⟩ := by
  rw [panelCommand_some, takeCommand_rowAddrSet ht hm, panelData_row rfl rfl rfl, if_pos hab]
  rfl

end Frames

/-! ### The pixel stream by index -/

/-- Rows of equal width one after another are one list by index. -/
theorem flatMap_range_rows {α : Type} (g : Nat → Nat → List α) (w h : Nat) :
    ((List.range h).flatMap fun y => (List.range w).flatMap fun x => g x y) =
      (List.range (w * h)).flatMap fun k => g (k % w) (k / w) := by
  induction h with
  | zero => rfl
  | succ h ih =>
    rw [List.range_succ, List.flatMap_append, ih, Nat.mul_succ, List.range_add, List.flatMap_append, List.flatMap_map]
    refine congrArg _ ((List.flatMap_singleton ..).trans (List.flatMap_congr fun x hx => ?_))
    have hx : x < w := List.mem_range.mp hx
    rw [Nat.mul_add_mod, Nat.mod_eq_of_lt hx, Nat.mul_add_div (by omega), Nat.div_eq_of_lt hx, Nat.add_zero]

/-- The word of the position with index `k`. -/
def pixelAt (cfg : Config) (canvas : Memory Colour) (k : Nat) : Word16 :=
  encodedPixel cfg canvas (k % cfg.width) (k / cfg.width)

theorem encodeCanvas_eq (cfg : Config) (canvas : Memory Colour) :
    encodeCanvas cfg canvas = (List.range cfg.npix).flatMap fun k => bytes16 (pixelAt cfg canvas k) :=
  flatMap_range_rows (fun x y => bytes16 (encodedPixel cfg canvas x y)) cfg.width cfg.height

theorem posIndex_mod {cfg : Config} {x : Nat} (hx : x < cfg.width) (y : Nat) : posIndex cfg x y % cfg.width = x := by
  rw [posIndex, Nat.mul_add_mod', Nat.mod_eq_of_lt hx]

theorem posIndex_div {cfg : Config} {x : Nat} (hx : x < cfg.width) (y : Nat) : posIndex cfg x y / cfg.width = y := by
  rw [posIndex, Nat.mul_comm, Nat.mul_add_div (Nat.zero_lt_of_lt hx), Nat.div_eq_of_lt hx, Nat.add_zero]

theorem posIndex_mod_div (cfg : Config) (k : Nat) : posIndex cfg (k % cfg.width) (k / cfg.width) = k :=
  Nat.div_add_mod' k cfg.width

theorem pixelAt_posIndex {cfg : Config} (canvas : Memory Colour) {x : Nat} (hx : x < cfg.width) (y : Nat) :
    pixelAt cfg canvas (posIndex cfg x y) = encodedPixel cfg canvas x y := by
  rw [pixelAt, posIndex_mod hx, posIndex_div hx]

/-! ### The pointer over the full window -/

/-- Where the pointer stands in the full window after `k` pixels. -/
def ptrAt (cfg : Config) (k : Nat) : Ptr :=
  if k < cfg.npix then .pos (k % cfg.width) (k / cfg.width) else .pastEnd

theorem ptrAt_posIndex {cfg : Config} {x y : Nat} (hx : x < cfg.width) (hy : y < cfg.height) :
    ptrAt cfg (posIndex cfg x y) = .pos x y := by
  rw [ptrAt, if_pos (posIndex_lt hx hy), posIndex_mod hx, posIndex_div hx]

/-- In the full window the pointer goes on by one index: along the row, to the next row, or past the end (R171). -/
theorem nextPtr_full {cfg : Config} {x y : Nat} (hx : x < cfg.width) (hy : y < cfg.height) :
    nextPtr 0 (cfg.width - 1) (cfg.height - 1) x y = ptrAt cfg (posIndex cfg x y + 1) := by
  unfold nextPtr
  by_cases hrow : x < cfg.width - 1
  · rw [if_pos hrow]
    exact (ptrAt_posIndex (by omega) hy).symm
  · have hnext : posIndex cfg x y + 1 = posIndex cfg 0 (y + 1) := by
      rw [posIndex, posIndex, Nat.succ_mul]
      omega
    rw [if_neg hrow, hnext]
    by_cases hcol : y < cfg.height - 1
    · rw [if_pos hcol, ptrAt_posIndex (by omega) (by omega)]
    · have hend : posIndex cfg 0 (y + 1) = cfg.npix := by
        rw [posIndex, Config.npix, Nat.add_zero, Nat.mul_comm, show y + 1 = cfg.height by omega]
      rw [if_neg hcol, hend, ptrAt, if_neg (Nat.lt_irrefl _)]

/-! ### The pixel stream at the receiver -/

/-- The window registers hold the full frame (R116). -/
def FullFrame (cfg : Config) (r : PanelRegs) : Prop :=
  r.xs = some 0 ∧ r.xe = some (BitVec.ofNat 16 (cfg.width - 1)) ∧
  r.ys = some 0 ∧ r.ye = some (BitVec.ofNat 16 (cfg.height - 1))

theorem toNat_last {n : Nat} (h : n ≤ 65536) : (BitVec.ofNat 16 (n - 1)).toNat = n - 1 := by
  rw [BitVec.toNat_ofNat, Nat.mod_eq_of_lt (by omega)]

/-- The first `n` pixels of a stream fill the first `n` positions and nothing else. -/
theorem panelData_pixels {cfg : Config} {low : Option Nat} {r : PanelRegs} (hw : cfg.width ≤ 65536)
    (hh : cfg.height ≤ 65536) (hc : r.cmd = some 0x2C#8) (hf : r.colmod = some cfg.colmodByte) (hl : r.latch = none)
    (hfull : FullFrame cfg r) (hp : r.ptr = ptrAt cfg 0) (pix : Nat → Word16) {n : Nat} (hn : n ≤ cfg.npix) :
    ∃ g idx, panelData cfg ((List.range n).flatMap fun k => bytes16 (pix k)) ⟨low, some r⟩ =
        ⟨low, some { r with gram := g, idx := idx, ptr := ptrAt cfg n }⟩ ∧
      ∀ i, g.get i = if i < n then some (pix i) else r.gram.get i := by
  obtain ⟨hxs, hxe, -, hye⟩ := hfull
  induction n with
  | zero => exact ⟨r.gram, r.idx, by rw [← hp]; rfl, fun i => rfl⟩
  | succ n ih =>
    obtain ⟨g, idx, hpanel, hget⟩ := ih (by omega)
    have hx : n % cfg.width < cfg.width := Nat.mod_lt n (Nat.pos_of_mul_pos_right (Nat.zero_lt_of_lt hn))
    have hy : n / cfg.width < cfg.height := Nat.div_lt_of_lt_mul hn
    have hpos : ptrAt cfg n = .pos (n % cfg.width) (n / cfg.width) := if_pos hn
    have hnext := nextPtr_full hx hy
    rw [posIndex_mod_div] at hnext
    refine ⟨g.set n (pix n), idx + 2, ?_, fun i => ?_⟩
    · rw [List.range_succ, List.flatMap_append, panelData_append, hpanel, List.flatMap_singleton,
        panelData_pixel (r := { r with gram := g, idx := idx, ptr := ptrAt cfg n }) hc hf hl hpos hxs hxe hye,
        toNat_last hw, toNat_last hh, posIndex_mod_div, ← hnext]
      rfl
    · by_cases hi : i = n
      · rw [hi, Memory.get_set_same, if_pos (Nat.lt_succ_self n)]
      · rw [Memory.get_set_other hi, hget]
        exact if_congr (by omega) rfl rfl

/-- A MEM_WRITE frame with the whole pixel stream, at a receiver with the full-frame window (R170, R171). -/
theorem panelFrame_stream {cfg : Config} (hin : cfg.InRange) (canvas : Memory Colour) {now : Nat} {low : Option Nat}
    {r : PanelRegs} (ht : r.tOk ≤ now) (hm : r.mode = .awake) (hf : (endFrame r).colmod = some cfg.colmodByte)
    (hfull : FullFrame cfg (endFrame r)) :
    ∃ g idx, panelData cfg (encodeCanvas cfg canvas) (panelCommand cfg now 0x2C#8 ⟨low, some r⟩) =
        ⟨low, some { endFrame r with
          cmd := some 0x2C#8, args := [], latch := none, gram := g, idx := idx, ptr := .pastEnd }⟩ ∧
      ∀ i, g.get i = if i < cfg.npix then some (pixelAt cfg canvas i) else r.gram.get i := by
  obtain ⟨hw, hw', hh, -⟩ := hin
  obtain ⟨hxs, hxe, hys, hye⟩ := hfull
  have hstart : (0 : Nat) < cfg.npix := Nat.mul_pos hw (by omega)
  have hptr : ptrAt cfg 0 = .pos (0#16).toNat (0#16).toNat := by
    rw [ptrAt, if_pos hstart, Nat.zero_mod, Nat.zero_div]
    rfl
  obtain ⟨g, idx, hpanel, hget⟩ := panelData_pixels (cfg := cfg) (low := low)
    (r := { startFrame 0x2C#8 r with ptr := .pos (0#16).toNat (0#16).toNat, latch := none }) hw' (by omega) rfl hf rfl
    ⟨hxs, hxe, hys, hye⟩ hptr.symm (pixelAt cfg canvas) le_rfl
  refine ⟨g, idx, ?_, fun i => ?_⟩
  · rw [encodeCanvas_eq, panelCommand_some, takeCommand_memWrite ht,
      takeMemWrite_eq ((startFrame_mode _ r).trans hm) hf hxs hxe hys hye]
    refine hpanel.trans ?_
    rw [ptrAt, if_neg (Nat.lt_irrefl _)]
    rfl
  · rw [hget, show (startFrame 0x2C#8 r).gram = r.gram from (endFrame_gram r).1]

/-! ### The frames of an operation -/

theorem play_cfg (items : List Item) (s : State) : (play items s).cfg = s.cfg := by
  obtain ⟨h, -⟩ := play_fields items s
  exact h

theorem le_play_now (items : List Item) (s : State) : s.now ≤ (play items s).now :=
  (Nat.le_add_right _ _).trans (play_now items s)

/-- A command byte and its payload, as the receiver takes them at the byte's time. -/
theorem play_frame_panel (b : Byte) (cfg : Config) (bs : List Byte) (ok bad ok' bad' : List Edit) (s : State) :
    ∃ now, s.now ≤ now ∧ now ≤ (play (commandItems b ok bad ++ payloadItems cfg bs ok' bad') s).now ∧
      (play (commandItems b ok bad ++ payloadItems cfg bs ok' bad') s).panel =
        panelData s.cfg bs (panelCommand s.cfg now b s.panel) := by
  obtain ⟨hdata, -⟩ := play_payload cfg bs ok' bad' (play (commandItems b ok bad) s)
  refine ⟨(play (commandItems b ok bad) s).now, le_play_now _ _, ?_, ?_⟩ <;> rw [play_append]
  · exact le_play_now _ _
  · obtain ⟨hcommand, -, hcfg⟩ := play_command b ok bad s
    rw [hdata, hcfg, hcommand]

/-- The two frames of a window. -/
theorem windowItems_eq (cfg : Config) (w : Window) : windowItems cfg w =
    (commandItems 0x2A#8 [] [.window none] ++ payloadItems cfg (columnBytes w) [] [.window none]) ++
    (commandItems 0x2B#8 [] [.window none] ++ payloadItems cfg (rowBytes w) [.window (some w)] [.window none]) := by
  simp only [windowItems, List.append_assoc]

theorem toNat_coordField {v : Int} (h : v < 65536) : (coordField v).toNat = v.toNat := by
  rw [coordField, BitVec.toNat_ofNat, Nat.mod_eq_of_lt (by omega)]

/-- The fields of a checked window are in order and inside the panel. -/
theorem fields_inside {cfg : Config} {w : Window} (hin : cfg.InRange) (hw : windowInBounds cfg w = true) :
    ((coordField w.x0).toNat ≤ (coordField w.x1).toNat ∧ (coordField w.x1).toNat < cfg.width) ∧
    (coordField w.y0).toNat ≤ (coordField w.y1).toNat ∧ (coordField w.y1).toNat < cfg.height := by
  obtain ⟨-, hwidth, hheight, -⟩ := hin
  obtain ⟨hx0, hx, hx1, hy0, hy, hy1⟩ := of_decide_eq_true hw
  rw [toNat_coordField (by omega), toNat_coordField (by omega), toNat_coordField (by omega),
    toNat_coordField (by omega)]
  omega

/-- The receiver after both frames of a window that it has taken. -/
def afterWindow (w : Window) (r : PanelRegs) : PanelRegs :=
  { endFrame r with
    xs := some (coordField w.x0), xe := some (coordField w.x1), ys := some (coordField w.y0),
    ye := some (coordField w.y1), ptr := .none, cmd := some 0x2B#8, idx := 4, args := rowBytes w, latch := none }

theorem endFrame_afterWindow (w : Window) (r : PanelRegs) : endFrame (afterWindow w r) = afterWindow w r := rfl

theorem afterRows_afterColumns (w : Window) (r : PanelRegs) :
    afterRows (coordField w.y0) (coordField w.y1) (afterColumns (coordField w.x0) (coordField w.x1) r) =
      afterWindow w r := by
  rw [afterRows, endFrame_afterColumns]
  rfl

/-- Both frames of a checked window at an awake receiver, in time. -/
theorem panelFrames_window {cfg : Config} {w : Window} (hin : cfg.InRange) (hw : windowInBounds cfg w = true)
    {now now' : Nat} {low : Option Nat} {r : PanelRegs} (ht : r.tOk ≤ now) (hnow : now ≤ now') (hm : r.mode = .awake) :
    panelData cfg (rowBytes w) (panelCommand cfg now' 0x2B#8
      (panelData cfg (columnBytes w) (panelCommand cfg now 0x2A#8 ⟨low, some r⟩))) =
      ⟨low, some (afterWindow w r)⟩ := by
  obtain ⟨-, hmode, htok, -⟩ := endFrame_gram r
  obtain ⟨hx, hy⟩ := fields_inside hin hw
  rw [columnBytes, panelFrame_column ht hm hx, rowBytes, panelFrame_row (r := afterColumns _ _ r)
    (htok.le.trans (ht.trans hnow)) (hmode.trans hm) hy, afterRows_afterColumns]

/-- A window within bounds at an awake receiver, in time. -/
theorem play_window_panel {s : State} {w : Window} {low : Option Nat} {r : PanelRegs} (hin : s.cfg.InRange)
    (hw : windowInBounds s.cfg w = true) (hs : s.panel = ⟨low, some r⟩) (ht : r.tOk ≤ s.now) (hm : r.mode = .awake) :
    (play (windowItems s.cfg w) s).panel = ⟨low, some (afterWindow w r)⟩ := by
  rw [windowItems_eq, play_append]
  generalize hcolumn : commandItems 0x2A#8 [] [.window none] ++ payloadItems s.cfg (columnBytes w) [] [.window none] =
    column
  obtain ⟨now, hnow, hle, hpanel⟩ := play_frame_panel 0x2A#8 s.cfg (columnBytes w) [] [.window none] [] [.window none] s
  obtain ⟨now', hnow', -, hpanel'⟩ := play_frame_panel 0x2B#8 s.cfg (rowBytes w) [] [.window none] [.window (some w)]
    [.window none] (play column s)
  rw [hcolumn] at hle hpanel
  rw [hpanel', play_cfg, hpanel, hs]
  exact panelFrames_window hin hw (ht.trans hnow) (hle.trans hnow') hm

theorem fullWindow_inBounds {cfg : Config} (hin : cfg.InRange) : windowInBounds cfg (fullWindow cfg) = true := by
  obtain ⟨hw, -, hh, -⟩ := hin
  exact decide_eq_true (by simp only [fullWindow]; omega)

theorem fullFrame_afterWindow (cfg : Config) (r : PanelRegs) : FullFrame cfg (afterWindow (fullWindow cfg) r) :=
  ⟨rfl, congrArg some (coordField_last _), rfl, congrArg some (coordField_last _)⟩

/-- A frame that is done leaves the two registers that a command byte could give up. -/
theorem endFrame_of_frameDone {r : PanelRegs} (h : FrameDone r) :
    (endFrame r).madctl = r.madctl ∧ (endFrame r).colmod = r.colmod := by
  obtain ⟨hmadctl, hcolmod⟩ := h
  unfold endFrame
  split
  · rename_i hc
    have := hmadctl (cmd_eq_of_toNat hc)
    rw [if_neg (by omega)]
    exact ⟨rfl, rfl⟩
  · rename_i hc
    have := hcolmod (cmd_eq_of_toNat hc)
    rw [if_neg (by omega)]
    exact ⟨rfl, rfl⟩
  · split <;> exact ⟨rfl, rfl⟩
  · split <;> exact ⟨rfl, rfl⟩
  · exact ⟨rfl, rfl⟩

/-! ### PRESENT -/

/-- What PRESENT makes of the registers `r`: the full frame shows the canvas, and the rest is as it was (R175). -/
structure Presented (cfg : Config) (canvas : Memory Colour) (r r' : PanelRegs) : Prop where
  mode : r'.mode = .awake
  madctl : r'.madctl = r.madctl
  colmod : r'.colmod = r.colmod
  dispOn : r'.dispOn = r.dispOn
  window : FullFrame cfg r'
  ptr : r'.ptr = .pastEnd
  latch : r'.latch = none
  shown : Shows cfg canvas r'
  outside : ∀ i, cfg.npix ≤ i → r'.gram.get i = r.gram.get i

/-- The events of PRESENT at an awake receiver in the configured format, in time. -/
theorem play_present_panel {s : State} {low : Option Nat} {r : PanelRegs} (hin : s.cfg.InRange)
    (canvas : Memory Colour) (hs : s.panel = ⟨low, some r⟩) (ht : r.tOk ≤ s.now) (hm : r.mode = .awake)
    (hf : r.colmod = some s.cfg.colmodByte) (hd : FrameDone r) :
    ∃ r', (play (presentItems s.cfg canvas) s).panel = ⟨low, some r'⟩ ∧ Presented s.cfg canvas r r' := by
  obtain ⟨hgram, hmode, htok, hdisp, -⟩ := endFrame_gram r
  obtain ⟨hmadctl, hcolmod⟩ := endFrame_of_frameDone hd
  have hwindow := play_window_panel hin (fullWindow_inBounds hin) hs ht hm
  obtain ⟨now, hnow, -, hpanel⟩ := play_frame_panel 0x2C#8 s.cfg (encodeCanvas s.cfg canvas) [] [] [] []
    (play (windowItems s.cfg (fullWindow s.cfg)) s)
  have hle := hnow.trans' (le_play_now _ s)
  have hself := endFrame_afterWindow (fullWindow s.cfg) r
  have hfull := fullFrame_afterWindow s.cfg r
  obtain ⟨g, idx, hstream, hget⟩ := panelFrame_stream (now := now) (low := low) hin canvas
    (r := afterWindow (fullWindow s.cfg) r) (htok.le.trans (ht.trans hle)) (hmode.trans hm)
    (hself.symm ▸ hcolmod.trans hf) (hself.symm ▸ hfull)
  rw [hself] at hstream
  have hend : (play (presentItems s.cfg canvas) s).panel = panelData s.cfg (encodeCanvas s.cfg canvas)
      (panelCommand s.cfg now 0x2C#8 ⟨low, some (afterWindow (fullWindow s.cfg) r)⟩) := by
    rw [presentItems, ramWriteItems, List.append_assoc, play_append, hpanel, play_cfg, hwindow]
  refine ⟨_, hend.trans hstream, hmode.trans hm, hmadctl, hcolmod, hdisp, hfull, rfl, rfl, ?_, ?_⟩
  · intro x y hx hy
    exact (hget _).trans (by rw [if_pos (posIndex_lt hx hy), pixelAt_posIndex canvas hx y]; rfl)
  · intro i hi
    exact (hget i).trans (by rw [if_neg (Nat.not_lt_of_le hi)]; exact congrArg (Memory.get · i) hgram)

/-- Settles O59: the two frames of the window make it the full frame, and the stream fills it by index. -/
theorem presentFillsPanel : Obligations.PresentFillsPanel := by
  intro s r hs hb hin ht hregs hm htok hf hd
  obtain ⟨hexec, -⟩ := perform_sendsAll (i := .present) (a := askPresent s) hs rfl (needsBus_eq_none.mpr hb)
    (events_present _ _) (listCalls_present _ _) ht (blockKept_play_latch hb rfl rfl _)
  have hpanel : (latch (askPresent s) s).panel = ⟨s.panel.lowSince, some r⟩ := by rw [latch_panel, ← hregs]
  obtain ⟨r', hpanel', h⟩ := play_present_panel (s := latch (askPresent s) s) hin s.canvas hpanel htok hm hf hd
  obtain ⟨hxs, hxe, hys, hye⟩ := h.window
  refine ⟨_, r', hexec, ?_, h.mode, h.madctl, h.colmod, h.dispOn, hxs, hxe, hys, hye, h.ptr, h.latch, h.shown,
    h.outside⟩
  rw [complete_eq, endOp_panel]
  exact hpanel'

end Sys2Proof.Machine
end

section
/-! PROOFS, 44_wire_commands.md R175. A configured receiver stays so whatever becomes of a picture operation, and
the end-to-end law. -/

namespace Sys2Proof.Machine

open Sys2Proof.Safety

/-! ### A configured receiver -/

/-- The registers of an initialised receiver: awake, in time, in the configured format, no register half written. -/
def RegsReady (c : Config) (now : Nat) (r : PanelRegs) : Prop :=
  r.mode = .awake ∧ r.tOk ≤ now ∧ r.colmod = some c.colmodByte ∧ FrameDone r

/-- The receiver is known and initialised. -/
def PanelReady (c : Config) (now : Nat) (p : Panel) : Prop := ∃ r, p.regs = some r ∧ RegsReady c now r

/-- A data byte that an initialised receiver takes is none of MEM_ACCESS_CTL or PIXEL_FORMAT. -/
theorem RegsReady.takeData {c : Config} {now : Nat} {d : Byte} {r r' : PanelRegs} (h : RegsReady c now r)
    (ht : takeData c d r = some r') : RegsReady c now r' := by
  obtain ⟨hm, htok, hf, hmadctl, hcolmod⟩ := h
  rcases takeData_cases ht with ⟨hc, hi, -⟩ | ⟨hc, hi, -⟩ | ⟨hc, hd⟩ | ⟨hc, hd⟩ | ⟨hc, hd⟩
  · have := hmadctl hc
    omega
  · have := hcolmod hc
    omega
  · rcases dataColAddrSet_cases hd with ⟨-, rfl⟩ | ⟨_, _, _, -, -, -, -, rfl⟩ <;>
      exact ⟨hm, htok, hf, by simp [FrameDone, keepArg, hc]⟩
  · rcases dataRowAddrSet_cases hd with ⟨-, rfl⟩ | ⟨_, _, _, -, -, -, -, rfl⟩ <;>
      exact ⟨hm, htok, hf, by simp [FrameDone, keepArg, hc]⟩
  · rcases dataMemWrite_cases hd with ⟨-, ⟨-, rfl⟩ | ⟨_, _, _, _, _, _, -, -, -, -, -, rfl⟩⟩ <;>
      exact ⟨hm, htok, hf, by simp [FrameDone, hc]⟩

/-- A command byte of a picture: an address set or MEM_WRITE. -/
def PictureByte (b : Byte) : Prop := b = 0x2A#8 ∨ b = 0x2B#8 ∨ b = 0x2C#8

theorem RegsReady.startFrame {c : Config} {now : Nat} {b : Byte} {r : PanelRegs} (h : RegsReady c now r)
    (hb : PictureByte b) : RegsReady c now (startFrame b r) := by
  obtain ⟨hm, htok, hf, hd⟩ := h
  obtain ⟨-, hmode, htok', -⟩ := endFrame_gram r
  obtain ⟨-, hcolmod⟩ := endFrame_of_frameDone hd
  refine ⟨hmode.trans hm, htok'.le.trans htok, hcolmod.trans hf, ?_⟩
  rcases hb with rfl | rfl | rfl <;> simp [FrameDone, Machine.startFrame]

/-- A picture's command byte that an initialised receiver takes leaves it initialised. -/
theorem RegsReady.takeCommand {c : Config} {now : Nat} {b : Byte} {r r' : PanelRegs} (h : RegsReady c now r)
    (hb : PictureByte b) (ht : takeCommand c now b r = some r') : RegsReady c now r' := by
  have hs := h.startFrame hb
  rcases takeCommand_cases ht with ⟨-, ⟨hb', -⟩ | ⟨-, ⟨-, rfl⟩ | ⟨-, rfl⟩ | ⟨-, rfl⟩ |
    ⟨-, -, _, _, _, _, -, -, -, -, rfl⟩ | ⟨-, rfl⟩⟩⟩
  · rcases hb with rfl | rfl | rfl <;> contradiction
  all_goals exact hs

theorem PanelReady.mono {c : Config} {now now' : Nat} {p : Panel} (h : PanelReady c now p) (hle : now ≤ now') :
    PanelReady c now' p := by
  obtain ⟨r, hr, hm, htok, hf, hd⟩ := h
  exact ⟨r, hr, hm, htok.trans hle, hf, hd⟩

theorem PanelReady.command {c : Config} {now : Nat} {b : Byte} {p : Panel} (h : PanelReady c now p) (hb : PictureByte b)
    (hk : (panelCommand c now b p).regs ≠ none) : PanelReady c now (panelCommand c now b p) := by
  obtain ⟨low, regs⟩ := p
  obtain ⟨r, rfl, hready⟩ := h
  obtain ⟨r', hr'⟩ := Option.ne_none_iff_exists'.mp hk
  exact ⟨r', hr', hready.takeCommand hb hr'⟩

theorem PanelReady.data {c : Config} {now : Nat} {ds : List Byte} {p : Panel} (h : PanelReady c now p)
    (hk : (panelData c ds p).regs ≠ none) : PanelReady c now (panelData c ds p) := by
  induction ds generalizing p with
  | nil => exact h
  | cons d ds ih =>
    obtain ⟨low, regs⟩ := p
    obtain ⟨r, rfl, hready⟩ := h
    cases ht : takeData c d r with
    | none => simp [panelData_refused ht] at hk
    | some q =>
      rw [panelData_taken ht] at hk ⊢
      exact ih ⟨q, rfl, hready.takeData ht⟩ hk

/-- A receiver that is known after all the bytes was known after the first of them. -/
theorem panelData_take_known {c : Config} {ds : List Byte} {p : Panel} (hk : (panelData c ds p).regs ≠ none) (k : Nat) :
    (panelData c (ds.take k) p).regs ≠ none := by
  intro h
  rw [← List.take_append_drop k ds, panelData_append, panelData_undefined h] at hk
  exact hk h

/-! ### Whatever becomes of an operation -/

/-- No race has happened and the receiver is initialised, in a block of this configuration. -/
def Configured (c : Config) (s : State) : Prop := s.race = false ∧ s.cfg = c ∧ PanelReady c s.now s.panel

theorem Configured.ready {c : Config} {s : State} (h : Configured c s) : PanelReady c s.now s.panel := by
  obtain ⟨-, -, hp⟩ := h
  exact hp

theorem configured_endOp {c : Config} {e : ErrClass} {s : State} : Configured c (endOp e s) ↔ Configured c s := Iff.rfl

/-- Wherever the list is cut off, and after all of it, the receiver is configured. -/
def Harmless (c : Config) : List Item → State → Prop
  | [], s => Configured c s
  | it :: rest, s => (∀ u, CutOff it s u → Configured c u) ∧ Harmless c rest (happen it s)

theorem Harmless.play {c : Config} {items : List Item} {s : State} (h : Harmless c items s) :
    Configured c (play items s) := by
  induction items generalizing s with
  | nil => exact h
  | cons it rest ih =>
    obtain ⟨-, hrest⟩ := h
    exact ih hrest

theorem Harmless.append {c : Config} {a b : List Item} {s : State} (ha : Harmless c a s)
    (hb : Harmless c b (Machine.play a s)) : Harmless c (a ++ b) s := by
  induction a generalizing s with
  | nil => exact hb
  | cons it rest ih =>
    obtain ⟨hcut, hrest⟩ := ha
    exact ⟨hcut, ih hrest hb⟩

/-- A harmless list that ends, completed or failed, leaves the receiver configured. -/
theorem Harmless.runItems {c : Config} {items : List Item} {s : State} (h : Harmless c items s) (hb : s.busy = true)
    (ht : (runItems items s).busy = false) : Configured c (runItems items s) := by
  induction items generalizing s with
  | nil => exact h
  | cons it rest ih =>
    obtain ⟨hcut, hrest⟩ := h
    rcases doItem_cases it s with ⟨hd, -⟩ | ⟨bs, k, he, -, hd⟩ | ⟨-, -, hd⟩ | ⟨bs, -, -, hd⟩
    · rw [runItems_cons_done hd] at ht ⊢
      exact ih hrest (by rw [happen_busy, hb]) ht
    · obtain ⟨u, hu, hfail⟩ := failTransfer_cutOff he k s
      rw [Machine.runItems, hd, hfail]
      exact hcut u hu
    · rw [Machine.runItems, hd]
      exact hcut (takeCallAnswer s) (.inr (.inl rfl))
    · rw [Machine.runItems, hd, hb] at ht
      cases ht

/-- A DC level first: it does not reach the receiver. -/
theorem Harmless.pin {c : Config} {lvl : Level} {rest : List Item} {s : State} (h : Configured c s)
    (hrest : ∀ u, Configured c u → u.pins.dc = .driven lvl → u.panel = s.panel → s.now ≤ u.now → Harmless c rest u) :
    Harmless c (pinItem .dc lvl :: rest) s := by
  obtain ⟨hr, hc, hp⟩ := h
  have hle : s.now ≤ (happen (pinItem .dc lvl) s).now := le_play_now [pinItem .dc lvl] s
  refine ⟨fun u hu => ?_, hrest _ ⟨hr, hc, hp.mono hle⟩ rfl rfl hle⟩
  rcases hu with rfl | rfl | ⟨_, _, he, -⟩
  · exact ⟨hr, hc, hp⟩
  · exact ⟨hr, hc, hp⟩
  · cases he

/-- A transfer first, any part of which leaves the receiver initialised. -/
theorem Harmless.xfer {c : Config} {bs : List Byte} {ok bad : List Edit} {rest : List Item} {s : State}
    (h : Configured c s)
    (hhear : ∀ k now, s.now ≤ now → PanelReady c now (panelHear c now s.pins.dc (bs.take k) s.panel))
    (hrest : ∀ u, Configured c u → u.pins = s.pins → (∃ now, u.panel = panelHear c now s.pins.dc bs s.panel) →
      Harmless c rest u) : Harmless c (⟨.xfer bs, ok, bad⟩ :: rest) s := by
  obtain ⟨hr, rfl, hp⟩ := h
  have hle : ∀ e, s.now ≤ eventTime e s := fun e => by unfold eventTime; omega
  refine ⟨fun u hu => ?_, hrest _ ⟨hr, rfl, ?_⟩ rfl ⟨_, rfl⟩⟩
  · rcases hu with rfl | rfl | ⟨_, k, he, rfl⟩
    · exact ⟨hr, rfl, hp⟩
    · exact ⟨hr, rfl, hp⟩
    · cases he
      exact ⟨hr, rfl, hhear k _ (hle _)⟩
  · have hall := hhear bs.length _ (hle (.xfer bs))
    rw [List.take_length] at hall
    exact hall

/-! ### The frames of a picture -/

theorem harmless_command {c : Config} {b : Byte} {ok bad : List Edit} {s : State} (h : Configured c s)
    (hb : PictureByte b) (hk : ∀ now, s.now ≤ now → (panelCommand c now b s.panel).regs ≠ none) :
    Harmless c (commandItems b ok bad) s := by
  refine .pin h fun u hu hdc hpanel hle => .xfer hu (fun k now hnow => ?_) fun v hv _ _ => hv
  have hp := hu.ready.mono hnow
  rw [hdc]
  cases k with
  | zero => exact hp
  | succ k =>
    rw [List.take_succ_cons, List.take_nil]
    exact hp.command hb (hpanel ▸ hk now (hle.trans hnow))

theorem transferItems_cons (ok bad : List Edit) (t : List Byte) (ts : List (List Byte)) :
    transferItems ok bad (t :: ts) = ⟨.xfer t, if ts = [] then ok else [], bad⟩ :: transferItems ok bad ts := by
  cases ts <;> rfl

theorem harmless_transfers {c : Config} {ok bad : List Edit} {ts : List (List Byte)} {s : State} (h : Configured c s)
    (hdc : s.pins.dc = .driven .high) (hk : (panelData c ts.flatten s.panel).regs ≠ none) :
    Harmless c (transferItems ok bad ts) s := by
  induction ts generalizing s with
  | nil => exact h
  | cons t ts ih =>
    rw [List.flatten_cons, panelData_append] at hk
    have ht : (panelData c t s.panel).regs ≠ none := fun hn => hk (by rw [panelData_undefined hn, hn])
    rw [transferItems_cons]
    refine .xfer h (fun k now hnow => ?_) fun u hu hpins ⟨now, hpanel⟩ => ih hu (hpins ▸ hdc) ?_
    · rw [hdc]
      exact (h.ready.mono hnow).data (panelData_take_known ht k)
    · rw [hdc] at hpanel
      rwa [hpanel]

theorem harmless_payload {c cfg : Config} {bs : List Byte} {ok bad : List Edit} {s : State} (h : Configured c s)
    (hk : (panelData c bs s.panel).regs ≠ none) : Harmless c (payloadItems cfg bs ok bad) s :=
  .pin h fun _ hu hdc hpanel _ => harmless_transfers hu hdc (by rwa [hpanel, chunks_flatten])

/-- A frame of a picture that the receiver takes whole is harmless wherever it is cut off. -/
theorem harmless_frame {c cfg : Config} {b : Byte} {bs : List Byte} {ok bad ok' bad' : List Edit} {s : State}
    (h : Configured c s) (hb : PictureByte b)
    (hk : ∀ now, s.now ≤ now → (panelData c bs (panelCommand c now b s.panel)).regs ≠ none) :
    Harmless c (commandItems b ok bad ++ payloadItems cfg bs ok' bad') s := by
  have hcommand : Harmless c (commandItems b ok bad) s :=
    harmless_command h hb fun now hnow hn => hk now hnow (by rw [panelData_undefined hn, hn])
  obtain ⟨hpanel, -⟩ := play_command b ok bad s
  obtain ⟨-, hc, -⟩ := h
  refine hcommand.append (harmless_payload hcommand.play ?_)
  rw [hpanel, hc]
  exact hk _ (le_play_now _ s)

theorem Configured.regs {c : Config} {s : State} (h : Configured c s) :
    ∃ r, s.panel = ⟨s.panel.lowSince, some r⟩ ∧ RegsReady c s.now r := by
  obtain ⟨-, -, r, hr, hready⟩ := h
  exact ⟨r, by rw [← hr], hready⟩

theorem harmless_window {c : Config} {w : Window} {s : State} (hin : c.InRange) (hw : windowInBounds c w = true)
    (h : Configured c s) : Harmless c (windowItems c w) s := by
  obtain ⟨hx, hy⟩ := fields_inside hin hw
  rw [windowItems_eq]
  have hcolumn : Harmless c (commandItems 0x2A#8 [] [.window none] ++
      payloadItems c (columnBytes w) [] [.window none]) s := by
    refine harmless_frame h (.inl rfl) fun now hnow => ?_
    obtain ⟨r, hr, hm, htok, -⟩ := h.regs
    rw [hr, columnBytes, panelFrame_column (htok.trans hnow) hm hx]
    exact Option.some_ne_none _
  refine hcolumn.append (harmless_frame hcolumn.play (.inr (.inl rfl)) fun now hnow => ?_)
  obtain ⟨r, hr, hm, htok, -⟩ := hcolumn.play.regs
  rw [hr, rowBytes, panelFrame_row (htok.trans hnow) hm hy]
  exact Option.some_ne_none _

theorem harmless_present {c : Config} {s : State} (hin : c.InRange) (canvas : Memory Colour) (h : Configured c s) :
    Harmless c (presentItems c canvas) s := by
  have hwindow := harmless_window hin (fullWindow_inBounds hin) h
  obtain ⟨r, hr, hm, htok, -⟩ := h.regs
  obtain ⟨r', hr', hm', htok', hf', -⟩ := hwindow.play.regs
  obtain ⟨-, rfl, -⟩ := h
  have hpanel := play_window_panel hin (fullWindow_inBounds hin) hr htok hm
  obtain rfl : r' = afterWindow (fullWindow s.cfg) r := by
    rw [hpanel] at hr'
    exact (Option.some.inj (congrArg Panel.regs hr')).symm
  have hself := endFrame_afterWindow (fullWindow s.cfg) r
  rw [presentItems, ramWriteItems, List.append_assoc]
  refine hwindow.append (harmless_frame hwindow.play (.inr (.inr rfl)) fun now hnow => ?_)
  obtain ⟨g, idx, hstream, -⟩ := panelFrame_stream (low := s.panel.lowSince) hin canvas (htok'.trans hnow) hm'
    (hself.symm ▸ hf') (hself.symm ▸ fullFrame_afterWindow s.cfg r)
  rw [hpanel, hstream]
  exact Option.some_ne_none _

/-! ### Picture operations -/

/-- A legal picture operation asks for a harmless list. -/
theorem pictureOp_harmless {c : Config} {i : Instr} {a : Ask} {s : State} (hin : c.InRange) (hi : isPictureOp i = true)
    (ha : askOf i s = some a) (hlegal : a.illegal = false) (h : Configured c s) :
    Harmless c a.items (latch a s) := by
  have hlatch : Configured c (latch a s) := h
  obtain ⟨-, rfl, -⟩ := h
  cases i <;> cases hi <;> cases ha
  case setAddressWindow x0 y0 x1 y1 =>
    exact harmless_window hin (by simpa [askSetAddressWindow, askEvents] using hlegal) hlatch
  case present => exact harmless_present hin s.canvas hlatch
  case encode | clear | draw => exact hlatch
  case reserved0xB | reserved0xC0xF => cases hlegal

/-- A picture operation that ends, with success or with an error, leaves the receiver configured. -/
theorem pictureOp_configured {c : Config} {i : Instr} {s t : State} (hin : c.InRange) (hi : isPictureOp i = true)
    (h : Configured c s) (hb : s.busy = false) (he : exec i s = .next t) (ht : t.busy = false) : Configured c t := by
  have hop : isHostop i = true := by cases i <;> cases hi <;> rfl
  obtain ⟨a, ha, hperform, -⟩ := hostop_performs hop s
  rw [hperform] at he
  have ⟨hrace, _⟩ := h
  rcases issue_cases a (runItems a.items) s with ⟨hr, -⟩ | ⟨-, hb', -⟩ | ⟨-, -, -, h'⟩ | ⟨-, -, -, r, -, h'⟩ |
    ⟨-, -, hlegal, -, h'⟩
  · simp [hrace] at hr
  · simp [hb] at hb'
  · cases h'.symm.trans he
    exact h
  · cases h'.symm.trans he
  · cases h'.symm.trans he
    exact (pictureOp_harmless hin hi ha hlegal h).runItems rfl ht

theorem between_configured {c : Config} {s t : State} (hin : c.InRange) (h : Between s t) (hs : Configured c s)
    (hb : s.busy = false) : Configured c t ∧ t.busy = false := by
  induction h with
  | refl => exact ⟨hs, hb⟩
  | tail _ hstep ih =>
    obtain ⟨i, hi, he, ht⟩ := hstep
    obtain ⟨hconf, hbusy⟩ := ih
    exact ⟨pictureOp_configured hin hi hconf hbusy he ht, ht⟩

/-! ### Operations that end without error -/

/-- An operation that has ended without error was legal, and its whole list has happened. -/
theorem perform_ended {a : Ask} {s t : State} (hs : Idle s) (h : perform a s = .next t) (ht : Ended t .none) :
    t = complete (play a.items (latch a s)) ∧ Idle t := by
  obtain ⟨hrace, hbusy⟩ := hs
  obtain ⟨hend, -, -, herr⟩ := ht
  rcases issue_cases a (runItems a.items) s with ⟨hr, -⟩ | ⟨-, hb, -⟩ | ⟨-, -, -, h'⟩ | ⟨-, -, -, r, -, h'⟩ |
    ⟨-, -, -, -, h'⟩
  · simp [hrace] at hr
  · simp [hbusy] at hb
  · cases h'.symm.trans h
    cases herr
  · cases h'.symm.trans h
  · cases h'.symm.trans h
    obtain ⟨-, hplay, -, -, -, hplayrace, -⟩ := play_fields a.items (latch a s)
    rcases runItems_cases a.items (latch a s) with hc | ⟨k, it, -, ⟨bs, m, he, -, hc⟩ | ⟨-, -, hc⟩ | ⟨bs, -, -, hc⟩⟩
    · rw [hc]
      exact ⟨rfl, hplayrace.trans hrace, rfl⟩
    · obtain ⟨u, -, hfail⟩ := failTransfer_cutOff he m (play (a.items.take k) (latch a s))
      rw [hc, hfail] at herr
      cases herr
    · rw [hc] at herr
      cases herr
    · obtain ⟨-, hstalled, -⟩ := play_fields (a.items.take k) (latch a s)
      rw [hc, hstalled] at hend
      cases hend

/-- An operation whose transfers complete ends without error and leaves the later answers to the next one. -/
theorem perform_ends {a : Ask} {s : State} {n : Nat} (hs : Idle s) (hb : s.busOpen = true) (hlegal : a.illegal = false)
    (hstop : a.stop = none) (hcanvas : a.canvas = s.canvas) (henc : a.encOut = s.encOut) (hcalls : listCalls a.items = 0)
    (ht : TransfersComplete s (listTransfers a.items + n)) :
    ∃ t, perform a s = .next t ∧ Ended t .none ∧ Idle t ∧ BlockKept s t ∧ TransfersComplete t n := by
  obtain ⟨hrace, hbusy⟩ := hs
  have hkept := blockKept_play_latch hb hcanvas henc a.items
  obtain ⟨-, -, -, -, hrace', -⟩ := hkept
  refine ⟨_, perform_completes hrace hbusy hlegal hstop (fun k hk => ht k (by omega)) (by simp [hcalls]),
    ⟨rfl, rfl, rfl, rfl⟩, ⟨hrace'.trans hrace, rfl⟩, blockKept_play_latch hb hcanvas henc a.items, fun k hk => ?_⟩
  exact (play_transferAnswer a.items (latch a s) k).trans (ht _ (by omega))

/-! ### The bring-up -/

/-- The frames of INIT_SEQUENCE at a receiver that takes the first byte in time, with the wake time after it (R164). -/
theorem panelFrames_init {cfg : Config} {n1 n2 n3 n4 : Nat} {low : Option Nat} {r : PanelRegs} (h1 : r.tOk ≤ n1)
    (h2 : n1 + micros cfg.sleepOutMs ≤ n2) (h3 : n2 ≤ n3) (h4 : n3 ≤ n4) (madctl colmod : Byte) :
    ∃ r', panelCommand cfg n4 0x29#8 (panelData cfg [colmod] (panelCommand cfg n3 0x3A#8
        (panelData cfg [madctl] (panelCommand cfg n2 0x36#8 (panelCommand cfg n1 0x11#8 ⟨low, some r⟩))))) =
        ⟨low, some r'⟩ ∧
      r'.mode = .awake ∧ r'.tOk ≤ n4 ∧ r'.madctl = some madctl ∧ r'.colmod = some colmod ∧ r'.dispOn = some true ∧
      r'.cmd = some 0x29#8 := by
  rw [panelCommand_some cfg n1, takeCommand_sleepOut h1, panelFrame_memAccessCtl h2 rfl,
    panelFrame_pixelFormat (h2.trans h3) rfl, panelCommand_some, takeCommand_displayOn (h2.trans (h3.trans h4)) rfl]
  exact ⟨_, rfl, rfl, h2.trans (h3.trans h4), rfl, rfl, rfl, rfl⟩

theorem initItems_frames (cfg : Config) : initItems cfg =
    commandItems 0x11#8 [.power .awake] [.power .unknown] ++ ([waitItem cfg.sleepOutMs []] ++
    ((commandItems 0x36#8 [] [.madctl none] ++
      payloadItems cfg [cfg.madctlByte] [.madctl (some cfg.madctlByte)] [.madctl none]) ++
    ((commandItems 0x3A#8 [] [.colmod none] ++
      payloadItems cfg [cfg.colmodByte] [.colmod (some cfg.colmodByte)] [.colmod none]) ++
    commandItems 0x29#8 [.displayOn (some true)] [.displayOn none]))) := by
  simp only [initItems, List.append_assoc]

/-- What INIT_SEQUENCE leaves of a receiver that takes its first byte in time. -/
theorem play_init_panel {s : State} {low : Option Nat} {r : PanelRegs} (hs : s.panel = ⟨low, some r⟩)
    (ht : r.tOk ≤ s.now) : ∃ r', (play (initItems s.cfg) s).panel = ⟨low, some r'⟩ ∧
      RegsReady s.cfg (play (initItems s.cfg) s).now r' ∧ r'.madctl = some s.cfg.madctlByte ∧
      r'.dispOn = some true := by
  rw [initItems_frames, play_append, play_append, play_append, play_append]
  generalize hu : play (commandItems 0x11#8 [.power .awake] [.power .unknown]) s = u
  have hupanel : u.panel = panelCommand s.cfg u.now 0x11#8 s.panel := by rw [← hu]; rfl
  have hunow : s.now ≤ u.now := by rw [← hu]; exact le_play_now _ s
  generalize hv : play [waitItem s.cfg.sleepOutMs []] u = v
  have hvpanel : v.panel = u.panel := by rw [← hv]; rfl
  have hvnow : u.now + micros s.cfg.sleepOutMs ≤ v.now := by
    rw [← hv]
    exact play_now [waitItem s.cfg.sleepOutMs []] u
  have hvcfg : v.cfg = s.cfg := by rw [← hv, play_cfg, ← hu, play_cfg]
  obtain ⟨n2, hn2, hn2w, hwpanel⟩ := play_frame_panel 0x36#8 s.cfg [s.cfg.madctlByte] [] [.madctl none]
    [.madctl (some s.cfg.madctlByte)] [.madctl none] v
  generalize hw : play (commandItems 0x36#8 _ _ ++ _) v = w at hn2w hwpanel ⊢
  have hwcfg : w.cfg = s.cfg := by rw [← hw, play_cfg, hvcfg]
  obtain ⟨n3, hn3, hn3x, hxpanel⟩ := play_frame_panel 0x3A#8 s.cfg [s.cfg.colmodByte] [] [.colmod none]
    [.colmod (some s.cfg.colmodByte)] [.colmod none] w
  generalize hx : play (commandItems 0x3A#8 _ _ ++ _) w = x at hn3x hxpanel ⊢
  have hxcfg : x.cfg = s.cfg := by rw [← hx, play_cfg, hwcfg]
  obtain ⟨hpanel, -⟩ := play_command 0x29#8 [.displayOn (some true)] [.displayOn none] x
  obtain ⟨r', hr', hmode, htok, hmadctl, hcolmod, hdisp, hcmd⟩ := panelFrames_init (low := low) (ht.trans hunow)
    (hvnow.trans hn2) (hn2w.trans hn3)
    (hn3x.trans (le_play_now (commandItems 0x29#8 [.displayOn (some true)] [.displayOn none]) x))
    s.cfg.madctlByte s.cfg.colmodByte
  refine ⟨r', ?_, ⟨hmode, htok, hcolmod, by simp [FrameDone, hcmd]⟩, hmadctl, hdisp⟩
  rw [hpanel, hxcfg, hxpanel, hwcfg, hwpanel, hvcfg, hvpanel, hupanel, hs, hr']

/-- The three operations of the end-to-end law end if their transfers complete. -/
theorem bringUp_ends {s : State} (hs : Idle s) (hb : s.busOpen = true) (hreset : s.pins.reset ≠ .unconfigured)
    (ht : TransfersComplete s (6 + xferCount (eventsOf .present s))) :
    ∃ t1 t2 t3, exec .hardReset s = .next t1 ∧ Ended t1 .none ∧ exec .initSequence t1 = .next t2 ∧ Ended t2 .none ∧
      exec .present t2 = .next t3 ∧ Ended t3 .none := by
  obtain ⟨t1, he1, hend1, hidle1, ⟨hcanvas1, -, hopen1, hcfg1, -⟩, ht1⟩ := perform_ends (a := askHardReset s)
    (n := 6 + xferCount (eventsOf .present s)) hs hb rfl (by simp [askHardReset, askEvents, hreset]) rfl rfl rfl
    (by rw [show listTransfers (askHardReset s).items = 0 from rfl, Nat.zero_add]; exact ht)
  have hitems : (askInitSequence t1).items = _ := initItems_eq t1.cfg
  obtain ⟨t2, he2, hend2, hidle2, ⟨hcanvas2, -, hopen2, hcfg2, -⟩, ht2⟩ := perform_ends (a := askInitSequence t1)
    (n := xferCount (eventsOf .present s)) hidle1 (hopen1.trans hb) rfl (needsBus_eq_none.mpr (hopen1.trans hb)) rfl rfl
    (by rw [hitems]; rfl) (by rw [hitems]; exact ht1)
  have hopen := hopen2.trans (hopen1.trans hb)
  have hevents : (askPresent t2).items.map Item.event = eventsOf .present s := by
    rw [eventsOf, ← hcfg1, ← hcfg2, ← hcanvas1, ← hcanvas2]
    exact events_present t2.cfg t2.canvas
  obtain ⟨t3, he3, hend3, -⟩ := perform_ends (a := askPresent t2) (n := 0) hidle2 hopen rfl (needsBus_eq_none.mpr hopen)
    rfl rfl (listCalls_present _ _) (by rw [listTransfers_eq_xferCount, hevents]; exact ht2)
  exact ⟨t1, t2, t3, he1, hend1, he2, hend2, he3, hend3⟩

/-- What HARD_RESET leaves of any receiver: reset, with its first command byte in time (R163). -/
theorem hardReset_panel {s t : State} (hs : Idle s) (he : exec .hardReset s = .next t) (ht : Ended t .none) :
    Idle t ∧ ∃ r, t.panel = ⟨none, some r⟩ ∧ r.tOk ≤ t.now := by
  obtain ⟨rfl, hidle⟩ := perform_ended (a := askHardReset s) hs he ht
  obtain ⟨edge, hedge, hpanel⟩ := play_pulse (s := play ((hardResetItems s.cfg).take 2) (latch (askHardReset s) s))
    (panelReset_high_lowSince _ _ _)
  exact ⟨hidle, _, hpanel, hedge⟩

/-- What INIT_SEQUENCE leaves of a receiver that takes its first byte in time. -/
theorem initSequence_panel {s t : State} {low : Option Nat} {r : PanelRegs} (hs : Idle s)
    (hp : s.panel = ⟨low, some r⟩) (hr : r.tOk ≤ s.now) (he : exec .initSequence s = .next t) (ht : Ended t .none) :
    Idle t ∧ ∃ r', t.panel = ⟨low, some r'⟩ ∧ RegsReady s.cfg t.now r' ∧ r'.madctl = some s.cfg.madctlByte ∧
      r'.dispOn = some true := by
  obtain ⟨rfl, hidle⟩ := perform_ended (a := askInitSequence s) hs he ht
  rw [complete_eq, endOp_panel, endOp_now]
  exact ⟨hidle, play_init_panel (s := latch (askInitSequence s) s) hp hr⟩

/-- What PRESENT leaves of an initialised receiver, and that it leaves it so. -/
theorem present_panel {s t : State} {low : Option Nat} {r : PanelRegs} (hin : s.cfg.InRange) (hs : Idle s)
    (hp : s.panel = ⟨low, some r⟩) (hr : RegsReady s.cfg s.now r) (he : exec .present s = .next t)
    (ht : Ended t .none) :
    Configured s.cfg t ∧ ∃ r', t.panel = ⟨low, some r'⟩ ∧ Presented s.cfg s.canvas r r' := by
  obtain ⟨rfl, -⟩ := perform_ended (a := askPresent s) hs he ht
  obtain ⟨hm, htok, hf, hd⟩ := id hr
  have hlatch : Configured s.cfg (latch (askPresent s) s) := ⟨hs.1, rfl, r, congrArg Panel.regs hp, hr⟩
  rw [complete_eq, configured_endOp, endOp_panel]
  exact ⟨(harmless_present hin s.canvas hlatch).play,
    play_present_panel (s := latch (askPresent s) s) hin s.canvas hp htok hm hf hd⟩

theorem exec_cfg {i : Instr} {s t : State} (h : exec i s = .next t) : t.cfg = s.cfg :=
  ((cfg_keptOps s.cfg).kept fun _ _ h => h).exec h rfl

/-- Settles O60: each operation hands the next a receiver it can go on with, and what comes between two PRESENTs keeps it
configured. -/
theorem endToEnd : Obligations.EndToEnd := by
  refine ⟨fun s hs hb hreset ht => bringUp_ends hs hb hreset ht, ?_⟩
  intro s t1 t2 t3 hs _ hin _ he1 hend1 he2 hend2 he3 hend3
  have hcanvas : t2.canvas = s.canvas := by
    rw [onlyClearAndDrawWriteCanvas.1 t1 t2 .initSequence nofun nofun he2,
      onlyClearAndDrawWriteCanvas.1 s t1 .hardReset nofun nofun he1]
  have hcfg1 := exec_cfg he1
  have hcfg2 := (exec_cfg he2).trans hcfg1
  obtain ⟨hidle1, r1, hp1, hr1⟩ := hardReset_panel hs he1 hend1
  obtain ⟨hidle2, r2, hp2, hr2, hmadctl, hdisp⟩ := initSequence_panel hidle1 hp1 hr1 he2 hend2
  rw [hcfg1] at hr2 hmadctl
  obtain ⟨hconf3, r3, hp3, h3⟩ := present_panel (hcfg2 ▸ hin) hidle2 hp2 (hcfg2 ▸ hr2) he3 hend3
  rw [hcfg2, hcanvas] at h3
  rw [hcfg2] at hconf3
  obtain ⟨-, -, hcolmod, -⟩ := hr2
  obtain ⟨hxs, hxe, hys, hye⟩ := h3.window
  obtain ⟨hbusy3, -⟩ := hend3
  refine ⟨⟨r3, hp3, h3.mode, h3.madctl.trans hmadctl, h3.colmod.trans hcolmod, h3.dispOn.trans hdisp, hxs, hxe, hys,
    hye, h3.ptr, h3.shown⟩, fun t t4 hbetween he4 hend4 => ?_⟩
  obtain ⟨hconf, hbusy⟩ := between_configured hin hbetween hconf3 hbusy3
  obtain ⟨r, hp, hr⟩ := hconf.regs
  obtain ⟨hrace, hcfg, -⟩ := hconf
  obtain ⟨-, r4, hp4, h4⟩ := present_panel (hcfg ▸ hin) ⟨hrace, hbusy⟩ hp (hcfg ▸ hr) he4 hend4
  rw [hcfg] at h4
  exact ⟨r4, congrArg Panel.regs hp4, h4.shown⟩

end Sys2Proof.Machine
end

section
/-! PROOFS, 60_exceptions.md R180 to R188. Which operations report which error, and what a TransportError leaves. -/

namespace Sys2Proof.Machine

open Sys2Proof.Safety

/-! ### ResourceUnavailableError -/

theorem errInv_keptOps : KeptOps ErrInv where
  race _ h := h
  configuration _ _ _ := nofun
  latch _ _ _ _ _ _ _ h := h
  tick _ h := tick_keeps h (fun _ it _ _ _ => (happen_err it _).trans_ne h) (fun _ _ _ _ _ _ => nofun) nofun

/-- Settles O49: an operation ends with no error, with ConfigurationError or with TransportError, and nothing else
writes `err`. -/
theorem noResourceError : Obligations.NoResourceError :=
  fun _ _ hs h => (errInv_keptOps.kept fun _ _ h => h).step (fun _ _ h => h) (fun _ _ h => h) (fun _ _ _ h => h)
    (fun _ _ _ h => h) (fun _ _ h => h) h hs

/-! ### ConfigurationError -/

/-- Only SET_ADDRESS_WINDOW, SETUP, DRAW and the reserved selects have a check that can fail (R181). -/
theorem askOf_legal {i : Instr} {a : Ask} {s : State} (hwindow : ∀ x0 y0 x1 y1, i ≠ .setAddressWindow x0 y0 x1 y1)
    (hsetup : i ≠ .setup) (hdraw : ∀ x y c, i ≠ .draw x y c) (hB : i ≠ .reserved0xB)
    (hC : ∀ low, i ≠ .reserved0xC0xF low) (ha : askOf i s = some a) : a.illegal = false := by
  cases i
  case setAddressWindow x0 y0 x1 y1 => exact absurd rfl (hwindow x0 y0 x1 y1)
  case setup => exact absurd rfl hsetup
  case draw x y c => exact absurd rfl (hdraw x y c)
  case reserved0xB => exact absurd rfl hB
  case reserved0xC0xF low => exact absurd rfl (hC low)
  all_goals cases ha <;> rfl

/-- A SETUP whose geometry is not square or is empty, on an open bus too (R181, 43_display_session.md R145). -/
theorem setup_illegal {s : State} (hs : Idle s) (hq : SeqInv s)
    (hgeom : s.cfg.width ≠ s.cfg.height ∨ s.cfg.width < 1 ∨ s.cfg.height < 1) :
    exec .setup s = .next { s with err := .configuration } := by
  have hbad : ¬(s.cfg.width = s.cfg.height ∧ 1 ≤ s.cfg.width) := by omega
  have hillegal : (askSetup s).illegal = true := congrArg not (decide_eq_false hbad)
  exact (perform_illegal hs.1 hs.2 hillegal).trans (congrArg _ (endOp_idle hs.2 hq .configuration))

/-- Settles O27: each check that fails does so before anything is latched, and an operation whose check holds ends with
no error or with TransportError. -/
theorem configurationErrorCases : Obligations.ConfigurationErrorCases := by
  intro s i hs hq hi
  refine ⟨?_, fun ⟨hwindow, hsetup, hdraw, hB, hC⟩ t he => ?_⟩
  · obtain ⟨-, -, hreserved⟩ := reservedSelects
    obtain ⟨hraisedB, hraisedC⟩ := hreserved s hs hq
    rintro (⟨x0, y0, x1, y1, rfl, hout⟩ | ⟨rfl, hgeom⟩ | ⟨x, y, c, rfl, hout⟩ | rfl | ⟨low, rfl⟩)
    · obtain ⟨hraised, -⟩ := windowBoundsCheck s x0 y0 x1 y1 hs hq
      exact hraised (by omega)
    · exact setup_illegal hs hq hgeom
    · obtain ⟨-, hraised⟩ := drawWritesOnePosition s x y c hs hq
      exact hraised hout
    · exact hraisedB
    · exact hraisedC low
  · obtain ⟨a, ha, hperform, -⟩ := hostop_performs hi s
    exact perform_err_ne_configuration hs (askOf_legal hwindow hsetup hdraw hB hC ha) (hperform.symm.trans he)

/-! ### A failed SPI call -/

/-- An entry's transfer or configuration call has failed in `s` and left `t`. -/
def FailsTo (it : Item) (s t : State) : Prop :=
  (∃ bs m, it.event = .xfer bs ∧ t = failTransfer it (bs.take m) (takeTransferAnswer s)) ∨
  (itemCalls it = 1 ∧ t = endOp .transport (applyEdits it.onFail (takeCallAnswer s)))

theorem FailsTo.ended {it : Item} {s t : State} (h : FailsTo it s t) : Ended t .transport := by
  obtain ⟨bs, m, -, rfl⟩ | ⟨-, rfl⟩ := h <;> exact ⟨rfl, rfl, rfl, rfl⟩

theorem FailsTo.shadow {it : Item} {s t : State} (h : FailsTo it s t) :
    t.shadow = it.onFail.foldl editShadow s.shadow := by
  obtain ⟨bs, m, -, rfl⟩ | ⟨-, rfl⟩ := h
  · exact failTransfer_shadow it _ _
  · rfl

/-- The event of a call that failed is a transfer or a configuration call (R182). -/
theorem FailsTo.event {it : Item} {s t : State} (h : FailsTo it s t) :
    (∃ bs, it.event = .xfer bs) ∨ (∃ a b, it.event = .spiOpen a b) ∨ (∃ a, it.event = .spiClk a) ∨
      ∃ a, it.event = .spiMode a := by
  obtain ⟨bs, -, he, -⟩ | ⟨hcall, -⟩ := h
  · exact .inl ⟨bs, he⟩
  · exact .inr (itemCalls_pos.mp (hcall ▸ Nat.one_pos))

/-- Of the failing event the trace takes the first bytes of a transfer, at least one, or nothing
(40_bus_transport.md R103). -/
theorem FailsTo.trace {it : Item} {s t : State} (h : FailsTo it s t) :
    (∃ bs m, it.event = .xfer bs ∧ bs.take m ≠ [] ∧ t.trace = s.trace ++ [.xfer (bs.take m)]) ∨ t.trace = s.trace := by
  obtain ⟨bs, m, he, rfl⟩ | ⟨-, rfl⟩ := h
  · unfold failTransfer
    split
    case isTrue => exact .inr rfl
    case isFalse hsent => exact .inl ⟨bs, m, he, hsent, rfl⟩
  · exact .inr rfl

/-- A failure that does not record an open bus, or that finds it open, leaves the rest of the block alone. -/
theorem FailsTo.blockKept {it : Item} {s t : State} (h : FailsTo it s t)
    (hopen : s.busOpen = true ∨ Edit.busOpen ∉ it.onFail) : BlockKept s t := by
  have hbus : (s.busOpen || decide (Edit.busOpen ∈ it.onFail)) = s.busOpen := by
    rcases hopen with hopen | hopen <;> simp [hopen]
  obtain ⟨bs, m, -, rfl⟩ | ⟨-, rfl⟩ := h
  · unfold failTransfer
    split <;> exact ⟨rfl, rfl, hbus, rfl, rfl, rfl, rfl, rfl⟩
  · exact ⟨rfl, rfl, hbus, rfl, rfl, rfl, rfl, rfl⟩

/-- A list that has ended with TransportError ended at an entry whose SPI call failed, all before it having happened. -/
theorem runItems_transport {items : List Item} {s : State} (hb : s.busy = true)
    (hend : (runItems items s).busy = false) (herr : (runItems items s).err = .transport) :
    ∃ k it, items[k]? = some it ∧ FailsTo it (play (items.take k) s) (runItems items s) := by
  rcases runItems_cases items s with h | ⟨k, it, hk, ⟨bs, m, he, -, h⟩ | ⟨hcall, -, h⟩ | ⟨bs, -, -, h⟩⟩
  · rw [h] at herr
    cases herr
  · exact ⟨k, it, hk, .inl ⟨bs, m, he, h⟩⟩
  · exact ⟨k, it, hk, .inr ⟨hcall, h⟩⟩
  · obtain ⟨-, hstalled, -⟩ := play_fields (items.take k) s
    rw [h, hstalled, hb] at hend
    cases hend

/-- Of an operation that has ended with TransportError the precondition held, and a call of its list failed. -/
theorem perform_transport {a : Ask} {s t : State} (hs : Idle s) (h : perform a s = .next t) (hend : t.busy = false)
    (herr : t.err = .transport) : a.stop = none ∧
      ∃ k it, a.items[k]? = some it ∧ FailsTo it (play (a.items.take k) (latch a s)) t := by
  obtain ⟨hrace, hbusy⟩ := hs
  rcases issue_cases a (runItems a.items) s with ⟨hr, -⟩ | ⟨-, hb, -⟩ | ⟨-, -, -, h'⟩ | ⟨-, -, -, r, -, h'⟩ |
    ⟨-, -, -, hstop, h'⟩
  · simp [hrace] at hr
  · simp [hbusy] at hb
  · cases h'.symm.trans h
    cases herr
  · cases h'.symm.trans h
  · cases h'.symm.trans h
    exact ⟨hstop, runItems_transport rfl hend herr⟩

/-! ### The event lists the operations ask for -/

/-- An operation asks for the events of the spec's expansion (30_encoding.md R86). -/
theorem askOf_events {i : Instr} {a : Ask} {s : State} (ha : askOf i s = some a) :
    a.items.map Item.event = eventsOf i s := by
  cases i <;> cases ha
  case initSequence => exact congrArg (List.map Item.event) (initItems_eq s.cfg)
  case setAddressWindow => exact events_window _ _
  case writeDataBytes => exact events_payload _ _ _ _
  case present => exact events_present _ _
  all_goals rfl

/-- An operation that has an event to emit writes no canvas and returns no bytes. -/
theorem askOf_emitting {i : Instr} {a : Ask} {s : State} (ha : askOf i s = some a) (hne : a.items ≠ []) :
    a.canvas = s.canvas ∧ a.encOut = s.encOut := by
  cases i <;> cases ha
  case encode | clear | draw => exact absurd rfl hne
  all_goals exact ⟨rfl, rfl⟩

/-- On a closed bus only SETUP and HARD_RESET have an event to emit (70_reset_and_hazards.md R211). -/
theorem askOf_closedBus {i : Instr} {a : Ask} {s : State} (ha : askOf i s = some a) (hstop : a.stop = none)
    (hclosed : s.busOpen ≠ true) :
    a.items = [] ∨ a.items = setupItems s.cfg ∨ a.items = hardResetItems s.cfg := by
  cases i <;> cases ha
  case setup => exact .inr (.inl rfl)
  case hardReset => exact .inr (.inr rfl)
  case encode | clear | draw | reserved0xB | reserved0xC0xF => exact .inl rfl
  all_goals exact absurd (needsBus_eq_none.mp hstop) hclosed

/-- Only the last entry of a list opens a closed bus, and only when it succeeds (R145). -/
theorem askOf_opensLast {i : Instr} {a : Ask} {s : State} {k : Nat} {it : Item} (ha : askOf i s = some a)
    (hstop : a.stop = none) (hclosed : s.busOpen ≠ true) (hk : a.items[k]? = some it) :
    (a.items.take k).any (fun it => decide (Edit.busOpen ∈ it.onOk)) = false ∧ Edit.busOpen ∉ it.onFail := by
  obtain ⟨hlt, hit⟩ := List.getElem?_eq_some_iff.mp hk
  rcases askOf_closedBus ha hstop hclosed with h | h | h <;> simp only [h] at hlt hit ⊢
  · simp at hlt
  all_goals
    subst hit
    simp [setupItems, hardResetItems] at hlt
    interval_cases k <;> exact ⟨rfl, List.not_mem_nil⟩

/-- Up to a call that fails, and by its failure, the rest of the block is kept. -/
theorem askOf_blockKept {i : Instr} {a : Ask} {s t : State} {k : Nat} {it : Item} (ha : askOf i s = some a)
    (hstop : a.stop = none) (hk : a.items[k]? = some it) (h : FailsTo it (play (a.items.take k) (latch a s)) t) :
    BlockKept s t := by
  obtain ⟨hcanvas, henc⟩ := askOf_emitting ha (fun hnil => by simp [hnil] at hk)
  by_cases hopen : s.busOpen = true
  · exact blockKept_trans (blockKept_play_latch hopen hcanvas henc _)
      (h.blockKept (.inl (play_busOpen (s := latch a s) _ hopen)))
  · obtain ⟨hok, hbad⟩ := askOf_opensLast ha hstop hopen hk
    obtain ⟨-, -, -, -, -, -, hbus, -⟩ := play_fields (a.items.take k) (latch a s)
    rw [hok, Bool.or_false] at hbus
    exact blockKept_trans (blockKept_trans (blockKept_latch hcanvas henc) (blockKept_play_of_busOpen hbus))
      (h.blockKept (.inr hbad))

/-! ### The records of the direct bytes -/

/-- A payload without records keeps the shadow however far it gets (10_state.md R43). -/
theorem payloadItems_no_records {cfg : Config} {bs : List Byte} {it : Item} (h : it ∈ payloadItems cfg bs [] []) :
    it.onOk = [] ∧ it.onFail = [] := by
  rcases List.mem_cons.mp h with rfl | h
  · exact ⟨rfl, rfl⟩
  generalize chunks cfg bs = ts at h
  induction ts with
  | nil => cases h
  | cons t ts ih =>
    rw [transferItems_cons] at h
    rcases List.mem_cons.mp h with rfl | h
    · exact ⟨ite_self _, rfl⟩
    · exact ih h

theorem play_shadow_of_no_records {items : List Item} (h : ∀ it ∈ items, it.onOk = []) (s : State) :
    (play items s).shadow = s.shadow := by
  induction items generalizing s with
  | nil => rfl
  | cons it is ih =>
    obtain ⟨-, -, -, -, -, -, -, -, -, hshadow, -⟩ := happen_fields it s
    rw [play_cons, ih (fun i hi => h i (List.mem_cons_of_mem it hi)), hshadow, h it List.mem_cons_self, List.foldl_nil]

/-- BEGIN_RAM_WRITE records the success of its only transfer, WRITE_DATA_BYTES nothing (10_state.md R27, R43). -/
theorem memoryBytes_fail_shadow {i : Instr} {a : Ask} {s t : State} {k : Nat} {it : Item}
    (hi : i = .beginRamWrite ∨ ∃ bs, i = .writeDataBytes bs) (ha : askOf i s = some a) (hk : a.items[k]? = some it)
    (h : FailsTo it (play (a.items.take k) (latch a s)) t) : t.shadow = s.shadow := by
  rw [h.shadow]
  rcases hi with rfl | ⟨bs, rfl⟩ <;> cases ha
  · match k, hk with
    | 0, hk => -- a DC level, which no call can fail
      cases hk
      have hcall := h.event
      simp [pinItem] at hcall
    | 1, hk =>
      cases hk
      rfl
  · have hnone : ∀ i ∈ (askWriteDataBytes bs s).items, i.onOk = [] ∧ i.onFail = [] := fun _ => payloadItems_no_records
    obtain ⟨-, hbad⟩ := hnone it (List.mem_of_getElem? hk)
    rw [hbad, List.foldl_nil, play_shadow_of_no_records fun i hi => (hnone i (List.mem_of_mem_take hi)).1, latch_shadow]

/-- Settles O35: everything before the failing call has happened, and its failure ends the operation. -/
theorem transportErrorsArePrecise : Obligations.TransportErrorsArePrecise := by
  intro s i t hs hi he hend herr
  obtain ⟨a, ha, hperform, -⟩ := hostop_performs hi s
  obtain ⟨hstop, k, it, hk, hfails⟩ := perform_transport hs (hperform.symm.trans he) hend herr
  obtain ⟨-, -, -, -, -, -, -, -, -, -, htrace, -⟩ := play_fields (a.items.take k) (latch a s)
  rw [List.map_take, askOf_events ha, latch_trace] at htrace
  refine ⟨k, it.event, ?_, ?_, hfails.event, hfails.ended, askOf_blockKept ha hstop hk hfails,
    fun hi => memoryBytes_fail_shadow hi ha hk hfails⟩
  · rw [← askOf_events ha, List.getElem?_map, hk, Option.map_some]
  · rw [← htrace]
    exact hfails.trace

end Sys2Proof.Machine
end

section
/-! PROOFS, 60_exceptions.md R190 to R196. The Input Watcher: an edge, a registration and a rebind. -/

namespace Sys2Proof.Machine

open Sys2Proof.Safety

/-! ### A button's pin -/

/-- A button move that has been taken acts on the button's pin (R29, R194). -/
theorem onButton_pin {button pin : Nat} {s : State} (h : s.cfg.buttonPins[button]? = some pin)
    (f : Nat → State → State) (rest : List Move) : onButton button f (consume rest s) = f pin (consume rest s) := by
  simp [onButton, h]

/-! ### An edge -/

theorem edgeOn_bound {pin : Nat} {s : State} {p : HostPort} {more : List HostPort}
    (h : s.watcher.bindings.get pin = some (p :: more)) :
    edgeOn pin s = { s with inputs := .async p :: (more.map Move.call ++ s.inputs) } := by
  simp [edgeOn, h, callbackMoves]

theorem edgeOn_unbound {pin : Nat} {s : State} (h : s.watcher.bindings.get pin = none) : edgeOn pin s = s := by
  simp [edgeOn, h, callbackMoves]

/-- Settles O30: the edge puts the callback's calls next, and its first call only begins the operation. -/
theorem callbackMayRace : Obligations.CallbackMayRace := by
  refine ⟨fun s button pin rest p more i hr hp hin hpin hbound hd => ?_, fun s button rest hr hp hin hunbound => ?_⟩
  · cases hd
    have hedge : step s = .next { s with inputs := .async p :: (more.map Move.call ++ rest) } := by
      rw [step_move hr hp hin, doMove, onButton_pin hpin, edgeOn_bound (s := consume rest s) hbound]
      rfl
    have hcall : step { s with inputs := .async p :: (more.map Move.call ++ rest) } =
        begin (decodeHostop p) (consume (more.map Move.call ++ rest) s) :=
      step_move (s := consume (.async p :: (more.map Move.call ++ rest)) s) hr hp rfl
    refine ⟨_, hedge, rfl, fun hb => ?_, fun _ => hcall⟩
    obtain ⟨hraces, -⟩ := raceIsSticky
    obtain ⟨-, hbegun⟩ := hraces (consume (more.map Move.call ++ rest) s) _ (isHostop_decodeHostop p) hr hb
    rw [hcall]
    exact hbegun
  · rw [step_move hr hp hin, doMove]
    cases hpin : s.cfg.buttonPins[button]? with
    | none => simp [onButton, hpin, consume]
    | some pin =>
      rw [onButton_pin hpin, edgeOn_unbound (s := consume rest s) (hunbound pin hpin)]
      rfl

/-! ### A registration -/

theorem registrationAnswer_take (w : World) (k : Nat) :
    registrationAnswer (takeRegistrationAnswer w) k = registrationAnswer w (k + 1) :=
  Oracle.answer_advance _ _ _

theorem registers_eq_true {pin : Nat} {s : State} :
    registers pin s = true ↔ s.watcher.bindings.get pin = none ∧ registrationAnswer s.world 0 = true := by
  simp [registers]

theorem registers_eq_false {pin : Nat} {s : State} : registers pin s = false ↔
    (s.watcher.bindings.get pin).isSome ∨ registrationAnswer s.world 0 = false := by
  simp [registers, Option.isNone_iff_eq_none, Option.isSome_iff_ne_none, imp_iff_not_or]

/-! ### A rebind -/

/-- One try of a rebind: a clear, then a set (R191). -/
def clearThenSet (cb : List HostPort) (pin : Nat) (s : State) : State := registerPin cb pin (clearPin pin s)

/-- On a cleared pin the platform alone decides. -/
theorem registers_clearPin (pin : Nat) (s : State) : registers pin (clearPin pin s) = registrationAnswer s.world 0 := by
  simp [registers, Memory.get_erase_same]

/-- A rebind is one try, and one more if that fails. -/
theorem rebindPin_eq (cb : List HostPort) (pin : Nat) (s : State) : rebindPin cb pin s =
    if registrationAnswer s.world 0 then clearThenSet cb pin s else clearThenSet cb pin (clearThenSet cb pin s) := by
  rw [rebindPin, registers_clearPin]
  rfl

theorem clearThenSet_same (cb : List HostPort) (pin : Nat) (s : State) :
    (clearThenSet cb pin s).watcher.bindings.get pin = (if registrationAnswer s.world 0 then some cb else none) ∧
    (clearThenSet cb pin s).watcher.lastResult =
      some (if registrationAnswer s.world 0 then .bound else .unavailable) := by
  rw [clearThenSet, registerPin_watcher, registers_clearPin]
  refine ⟨?_, rfl⟩
  dsimp only
  split
  · exact Memory.get_set_same pin cb _
  · exact Memory.get_erase_same pin s.watcher.bindings

theorem clearThenSet_other (cb : List HostPort) {pin q : Nat} (h : q ≠ pin) (s : State) :
    (clearThenSet cb pin s).watcher.bindings.get q = s.watcher.bindings.get q := by
  have herase := Memory.get_erase_other h s.watcher.bindings
  rw [clearThenSet, registerPin_watcher]
  dsimp only
  split
  · exact (Memory.get_set_other h cb _).trans herase
  · exact herase

/-- What the two tries of a rebind leave at its pin. -/
theorem rebindPin_same (cb : List HostPort) (pin : Nat) (s : State) :
    (rebindPin cb pin s).watcher.bindings.get pin =
      (if registrationAnswer s.world 0 || registrationAnswer s.world 1 then some cb else none) ∧
    (rebindPin cb pin s).watcher.lastResult =
      some (if registrationAnswer s.world 0 || registrationAnswer s.world 1 then .bound else .unavailable) := by
  rw [rebindPin_eq]
  cases h0 : registrationAnswer s.world 0 with
  | true => simpa [h0] using clearThenSet_same cb pin s
  | false =>
    have h1 : registrationAnswer (clearThenSet cb pin s).world 0 = registrationAnswer s.world 1 :=
      registrationAnswer_take s.world 0
    simpa [h1] using clearThenSet_same cb pin (clearThenSet cb pin s)

/-- Settles O31: a rebind is one or two tries on a cleared pin, and a registration without a clear looks at its pin. -/
theorem rebindReplaces : Obligations.RebindReplaces := by
  refine ⟨fun s pin cb => ?_, fun s pin cb => ⟨fun h => ?_, fun h => ?_⟩, fun s button pin cb rest hr hp hpin => ?_⟩
  · obtain ⟨hget, hresult⟩ := rebindPin_same cb pin s
    rw [hget, hresult, rebindPin_eq]
    refine ⟨fun h => ?_, fun ⟨h0, h1⟩ => by simp [h0, h1], fun h => ?_, fun q hq => ?_, ?_⟩
    · have hany : (registrationAnswer s.world 0 || registrationAnswer s.world 1) = true := by simpa using h
      simp [hany]
    · simp [h, clearThenSet]
    · split
      · exact clearThenSet_other cb hq s
      · exact (clearThenSet_other cb hq _).trans (clearThenSet_other cb hq s)
    · split <;> exact ⟨rfl, rfl, rfl, rfl⟩
  · simp [registers_eq_false.mpr h]
  · simp [registers_eq_true.mpr h]
  · constructor <;> intro hi <;> rw [step_move hr hp hi, doMove, onButton_pin hpin] <;> rfl

end Sys2Proof.Machine
end

section
/-! PROOFS, 70_reset_and_hazards.md R211, R229. Operations the precondition rules refuse, and a transfer that never
returns. -/

namespace Sys2Proof.Machine

open Sys2Proof.Safety

/-! ### Refused operations -/

/-- A legal operation whose precondition is broken is refused (R211). -/
theorem perform_refused {a : Ask} {s : State} {r : Refusal} (hs : Idle s) (hlegal : a.illegal = false)
    (hstop : a.stop = some r) : perform a s = .refused r := by
  obtain ⟨hrace, hbusy⟩ := hs
  simp [perform, issue, hrace, hbusy, hlegal, hstop]

/-- An operation without a precondition always answers a next state: ConfigurationError, or whatever its list ends in. -/
theorem perform_answers {a : Ask} {s : State} (hs : Idle s) (hstop : a.stop = none) : ∃ t, perform a s = .next t := by
  obtain ⟨hrace, hbusy⟩ := hs
  cases hlegal : a.illegal with
  | true => exact ⟨_, perform_illegal hrace hbusy hlegal⟩
  | false => exact ⟨_, perform_runs hrace hbusy hlegal hstop⟩

theorem needsBus_closed {s : State} (hb : s.busOpen = false) : needsBus s = some .busNotOpen := by
  simp [needsBus, hb]

/-- Settles O28: each operation's check holds and its precondition is broken, and ENCODE, CLEAR and DRAW have none. -/
theorem refusedWithoutSetup : Obligations.RefusedWithoutSetup := by
  refine fun s hs => ⟨fun hb => ?_, fun hreset => ?_, fun hb hsquare hwidth => ?_, perform_answers hs rfl,
    fun _ => perform_answers hs rfl, fun _ _ _ => perform_answers hs rfl⟩
  · have hstop := needsBus_closed hb
    exact ⟨perform_refused hs rfl hstop, perform_refused hs rfl hstop, fun _ => perform_refused hs rfl hstop,
      fun _ => perform_refused hs rfl hstop, perform_refused hs rfl hstop,
      fun _ _ _ _ hw => perform_refused hs (congrArg not hw) hstop⟩
  · exact perform_refused hs rfl (if_pos hreset)
  · exact perform_refused hs (congrArg not (decide_eq_true ⟨hsquare, hwidth⟩)) (if_pos hb)

/-! ### A stalled transfer -/

/-- With only blocking calls to come, every step of a busy block is a step of the sequencer. -/
theorem step_busy_calls {s : State} (hr : s.race = false) (hb : s.busy = true)
    (hcalls : ∀ m ∈ s.inputs, ∃ p, m = .call p) : step s = .next (tick s) := by
  by_cases hp : s.presented = []
  case neg => exact step_presented_waits hr hb hp
  case pos =>
    cases hi : s.inputs with
    | nil => simp [step, advance, hr, hp, hi]
    | cons m rest =>
      obtain ⟨p, rfl⟩ := hcalls m (hi ▸ List.mem_cons_self)
      rw [step_move hr hp hi, doMove, if_pos hb]

/-- A transfer that never returns leaves everything as it is, the pending answer too (R229). -/
theorem tick_stalled {s : State} {o : Running} {it : Item} {bs : List Byte} (hb : s.busy = true) (ho : s.op = some o)
    (hi : o.items[s.seq]? = some it) (he : it.event = .xfer bs) (hnever : transferAnswer s.world 0 = .never) :
    tick s = s := by
  simp [tick, hb, ho, hi, doItem, he, hnever]

/-- A step that changes nothing changes nothing however often it is made. -/
theorem run_fixed {M : Host.Core} {s : M.State} (h : M.step s = .next s) (n : Nat) : M.run n s = .next s := by
  induction n with
  | zero => rfl
  | succ n ih =>
    rw [Host.Core.run, h]
    exact ih

/-- Settles O36: the only step there is, one of the sequencer, meets the transfer that never returns. -/
theorem stalledBlockStays : Obligations.StalledBlockStays := by
  intro s o it bs hr hb ho hi he hnever hcalls
  exact run_fixed ((step_busy_calls hr hb hcalls).trans (congrArg _ (tick_stalled hb ho hi he hnever)))

end Sys2Proof.Machine
end

section
/-! PROOFS, 70_reset_and_hazards.md R214. READY: what the bring-up makes it of, and the operations that keep it. -/

namespace Sys2Proof.Machine

open Sys2Proof.Safety

/-! ### READY -/

/-- The shadow holds what INIT_SEQUENCE records (10_state.md R28). -/
def Recorded (cfg : Config) (sh : Shadow) : Prop :=
  sh.power = .awake ∧ sh.madctl = some cfg.madctlByte ∧ sh.colmod = some cfg.colmodByte ∧ sh.displayOn = some true

theorem ready_iff (s : State) : ready s = true ↔
    s.busOpen = true ∧ s.pins.backlight = .driven .high ∧ Recorded s.cfg s.shadow := by
  simp [ready, Recorded, and_assoc]

/-! ### The bring-up -/

/-- SETUP that ends without error opens the bus and puts the backlight on. -/
theorem setup_lights {s t : State} (hs : Idle s) (he : exec .setup s = .next t) (ht : Ended t .none) :
    Idle t ∧ t.busOpen = true ∧ t.pins.backlight = .driven .high := by
  obtain ⟨rfl, hidle⟩ := perform_ended (a := askSetup s) hs he ht
  obtain ⟨-, -, -, -, -, -, hopen, hpins, -⟩ := play_fields (setupItems s.cfg) (latch (askSetup s) s)
  exact ⟨hidle, hopen.trans (Bool.or_true _), congrArg Pins.backlight hpins⟩

/-- HARD_RESET drives no pin but RESET and writes nothing but the shadow. -/
theorem hardReset_keeps_lit {s t : State} (hs : Idle s) (he : exec .hardReset s = .next t) (ht : Ended t .none)
    (hopen : s.busOpen = true) (hlight : s.pins.backlight = .driven .high) :
    Idle t ∧ t.busOpen = true ∧ t.pins.backlight = .driven .high := by
  obtain ⟨rfl, hidle⟩ := perform_ended (a := askHardReset s) hs he ht
  obtain ⟨-, -, -, -, -, -, -, hpins, -⟩ := play_fields (hardResetItems s.cfg) (latch (askHardReset s) s)
  exact ⟨hidle, play_busOpen (s := latch (askHardReset s) s) _ hopen, (congrArg Pins.backlight hpins).trans hlight⟩

/-- INIT_SEQUENCE that ends without error on an open bus with the backlight on makes the block READY. -/
theorem initSequence_ready {s t : State} (hs : Idle s) (he : exec .initSequence s = .next t) (ht : Ended t .none)
    (hopen : s.busOpen = true) (hlight : s.pins.backlight = .driven .high) : ready t = true := by
  obtain ⟨rfl, -⟩ := perform_ended (a := askInitSequence s) hs he ht
  have hitems : (askInitSequence s).items = _ := initItems_eq s.cfg
  obtain ⟨hcfg, -, -, -, -, -, -, hpins, -, hshadow, -⟩ :=
    play_fields (askInitSequence s).items (latch (askInitSequence s) s)
  rw [complete_eq, ready_iff, endOp_busOpen, endOp_pins, endOp_cfg, endOp_shadow, hcfg, hpins, hshadow]
  refine ⟨play_busOpen _ hopen, ?_, ?_⟩ <;> rw [hitems]
  · exact hlight
  · exact ⟨rfl, rfl, rfl, rfl⟩

/-- An operation that has ended was issued to an idle block. -/
theorem idle_of_ended {i : Instr} {s t : State} {e : ErrClass} (hi : isHostop i = true) (he : exec i s = .next t)
    (ht : Ended t e) : Idle s := by
  obtain ⟨hend, -⟩ := ht
  cases hr : s.race with
  | true => cases (exec_raced i hr).symm.trans he
  | false =>
    cases hb : s.busy with
    | false => exact ⟨hr, hb⟩
    | true =>
      obtain ⟨a, -, hperform, -⟩ := hostop_performs hi s
      cases (issue_busy a _ hr hb).symm.trans (hperform.symm.trans he)
      cases hb.symm.trans hend

/-! ### Entries that READY survives -/

/-- A record that READY does not read: of the window or of `ramwr`. -/
def PictureEdit (e : Edit) : Prop := (∃ v, e = .window v) ∨ ∃ v, e = .ramwr v

/-- An entry of a picture's frames: it does not put the backlight out, and its records are none that READY reads. -/
structure PictureItem (it : Item) : Prop where
  event : it.event ≠ .pin .backlight .low
  onOk : ∀ e ∈ it.onOk, PictureEdit e
  onFail : ∀ e ∈ it.onFail, PictureEdit e

theorem Recorded.edits {cfg : Config} {es : List Edit} {sh : Shadow} (hes : ∀ e ∈ es, PictureEdit e)
    (h : Recorded cfg sh) : Recorded cfg (es.foldl editShadow sh) := by
  induction es generalizing sh with
  | nil => exact h
  | cons e es ih =>
    refine ih (fun e' he' => hes e' (List.mem_cons_of_mem e he')) ?_
    rcases hes e List.mem_cons_self with ⟨v, rfl⟩ | ⟨v, rfl⟩ <;> exact h

theorem ready_applyEdits {es : List Edit} {s : State} (hes : ∀ e ∈ es, PictureEdit e) (h : ready s = true) :
    ready (applyEdits es s) = true := by
  obtain ⟨hopen, hlight, hshadow⟩ := (ready_iff s).mp h
  exact (ready_iff _).mpr ⟨by simp [hopen], hlight, hshadow.edits hes⟩

theorem ready_happen {it : Item} {s : State} (hit : PictureItem it) (h : ready s = true) :
    ready (happen it s) = true := by
  obtain ⟨hopen, hlight, hshadow⟩ := (ready_iff s).mp h
  obtain ⟨hcfg, -, -, -, -, -, hopen', hpins, -, hshadow', -⟩ := happen_fields it s
  rw [ready_iff, hopen', hpins, hcfg, hshadow', hopen]
  exact ⟨rfl, pinsAfter_backlight_high hlight hit.event, hshadow.edits hit.onOk⟩

theorem ready_failTransfer {it : Item} {sent : List Byte} {s : State} (hit : PictureItem it) (h : ready s = true) :
    ready (failTransfer it sent s) = true := by
  unfold failTransfer
  split
  · exact ready_applyEdits hit.onFail h
  · exact ready_applyEdits (s := emit (.xfer sent) s) hit.onFail h

/-- A list of such entries keeps READY whether it completes, fails or hangs. -/
theorem ready_runItems {items : List Item} {s : State} (hitems : ∀ it ∈ items, PictureItem it) (h : ready s = true) :
    ready (runItems items s) = true :=
  runItems_induct (fun u => ready u = true) items s h
    (fun it _ hit hu => ready_happen (hitems it hit) hu)
    (fun it _ _ hit hu => ready_failTransfer (hitems it hit) hu)
    (fun it _ hit hu => ready_applyEdits (hitems it hit).onFail hu)
    (fun _ hu => hu)

/-! ### The event lists of picture operations -/

theorem pictureItem_pin_dc (lvl : Level) : PictureItem (pinItem .dc lvl) :=
  ⟨nofun, nofun, nofun⟩

theorem pictureItems_command {b : Byte} {ok bad : List Edit} (hok : ∀ e ∈ ok, PictureEdit e)
    (hbad : ∀ e ∈ bad, PictureEdit e) : ∀ it ∈ commandItems b ok bad, PictureItem it := by
  have hxfer : PictureItem ⟨.xfer [b], .ramwr (b == 0x2C#8) :: ok, bad⟩ :=
    ⟨nofun, List.forall_mem_cons.mpr ⟨.inr ⟨_, rfl⟩, hok⟩, hbad⟩
  exact List.forall_mem_cons.mpr ⟨pictureItem_pin_dc .low, List.forall_mem_singleton.mpr hxfer⟩

theorem pictureItems_transfers {ok bad : List Edit} (hok : ∀ e ∈ ok, PictureEdit e)
    (hbad : ∀ e ∈ bad, PictureEdit e) (ts : List (List Byte)) : ∀ it ∈ transferItems ok bad ts, PictureItem it := by
  induction ts with
  | nil => nofun
  | cons t ts ih =>
    rw [transferItems_cons]
    refine List.forall_mem_cons.mpr ⟨⟨nofun, ?_, hbad⟩, ih⟩
    dsimp only
    split
    · exact hok
    · nofun

theorem pictureItems_payload {cfg : Config} {bs : List Byte} {ok bad : List Edit} (hok : ∀ e ∈ ok, PictureEdit e)
    (hbad : ∀ e ∈ bad, PictureEdit e) : ∀ it ∈ payloadItems cfg bs ok bad, PictureItem it :=
  List.forall_mem_cons.mpr ⟨pictureItem_pin_dc .high, pictureItems_transfers hok hbad _⟩

theorem pictureItems_window (cfg : Config) (w : Window) : ∀ it ∈ windowItems cfg w, PictureItem it := by
  have hwindow : ∀ v, ∀ e ∈ [Edit.window v], PictureEdit e := fun v => List.forall_mem_singleton.mpr (.inl ⟨v, rfl⟩)
  simp only [windowItems, List.forall_mem_append]
  exact ⟨⟨⟨pictureItems_command nofun (hwindow _), pictureItems_payload nofun (hwindow _)⟩,
    pictureItems_command nofun (hwindow _)⟩, pictureItems_payload (hwindow _) (hwindow _)⟩

theorem pictureItems_present (cfg : Config) (canvas : Memory Colour) :
    ∀ it ∈ presentItems cfg canvas, PictureItem it := by
  simp only [presentItems, ramWriteItems, List.forall_mem_append]
  exact ⟨⟨pictureItems_window cfg _, pictureItems_command nofun nofun⟩, pictureItems_payload nofun nofun⟩

/-- Of a direct byte of a picture at most the window is given up (10_state.md R43). -/
theorem pictureEdit_directEdits {b : Byte} (hb : PictureByte b) : ∀ e ∈ directEdits b, PictureEdit e := by
  rcases hb with rfl | rfl | rfl
  · exact List.forall_mem_singleton.mpr (.inl ⟨none, rfl⟩)
  · exact List.forall_mem_singleton.mpr (.inl ⟨none, rfl⟩)
  · nofun

/-- On an open bus every operation that starts asks for entries that READY survives, but HARD_RESET, INIT_SEQUENCE and
a direct command byte that is none of a picture's. -/
theorem askOf_pictureItems {i : Instr} {a : Ask} {s : State} (ha : askOf i s = some a) (hstop : a.stop = none)
    (hopen : s.busOpen = true) (hreset : i ≠ .hardReset) (hinit : i ≠ .initSequence)
    (hbyte : ∀ b, i = .writeCommandByte b → PictureByte b) : ∀ it ∈ a.items, PictureItem it := by
  cases i <;> cases ha
  case setup => exact absurd ((if_pos hopen).symm.trans hstop) nofun
  case hardReset => exact absurd rfl hreset
  case initSequence => exact absurd rfl hinit
  case setAddressWindow => exact pictureItems_window s.cfg _
  case beginRamWrite => exact pictureItems_command nofun nofun
  case writeCommandByte b =>
    have hedits := pictureEdit_directEdits (hbyte b rfl)
    exact pictureItems_command hedits hedits
  case writeDataBytes => exact pictureItems_payload nofun nofun
  case present => exact pictureItems_present s.cfg s.canvas
  case encode | clear | draw | reserved0xB | reserved0xC0xF => nofun

/-- An operation whose list READY survives keeps it, whatever its outcome. -/
theorem ready_perform {a : Ask} {s t : State} (hitems : a.stop = none → ∀ it ∈ a.items, PictureItem it)
    (hs : ready s = true) (h : perform a s = .next t) : ready t = true := by
  rcases issue_cases a (runItems a.items) s with ⟨-, h'⟩ | ⟨-, -, h'⟩ | ⟨-, -, -, h'⟩ | ⟨-, -, -, r, -, h'⟩ |
    ⟨-, -, -, hstop, h'⟩ <;> cases h'.symm.trans h
  · exact hs
  · exact hs
  · exact ready_runItems (s := latch a s) (hitems hstop) hs

/-- Every instruction but the exceptions of R214 keeps READY: bytes at the panel do not reach the block. -/
theorem ready_exec {i : Instr} {s t : State} (hs : ready s = true) (h : exec i s = .next t) (hreset : i ≠ .hardReset)
    (hinit : i ≠ .initSequence) (hbyte : ∀ b, i = .writeCommandByte b → PictureByte b) : ready t = true := by
  obtain ⟨hopen, -⟩ := (ready_iff s).mp hs
  rcases exec_cases i s with ⟨a, ha, he, -⟩ | ⟨c, data, he⟩ | ⟨data, he⟩
  · exact ready_perform (fun hstop => askOf_pictureItems ha hstop hopen hreset hinit hbyte) hs (he.symm.trans h)
  · obtain ⟨p, rfl⟩ := arriveFrame_next ((he s).2.1 ▸ h)
    exact hs
  · obtain ⟨p, rfl⟩ := arriveData_next ((he s).2.1 ▸ h)
    exact hs

/-- Settles O39: SETUP lights the bus, HARD_RESET leaves it lit, INIT_SEQUENCE makes the records, and no other list
touches either. -/
theorem readyAfterBringUp : Obligations.ReadyAfterBringUp := by
  refine ⟨fun s t1 t2 t3 hs he1 ht1 he2 ht2 he3 ht3 => ?_, fun s t i hs he hreset hended hbyte => ?_⟩
  · obtain ⟨hidle1, hopen1, hlight1⟩ := setup_lights hs he1 ht1
    obtain ⟨hidle2, hopen2, hlight2⟩ := hardReset_keeps_lit hidle1 he2 ht2 hopen1 hlight1
    exact initSequence_ready hidle2 he3 ht3 hopen2 hlight2
  · by_cases hinit : i = .initSequence
    case pos =>
      subst hinit
      have ht := hended rfl
      obtain ⟨hopen, hlight, -⟩ := (ready_iff s).mp hs
      exact initSequence_ready (idle_of_ended rfl he ht) he ht hopen hlight
    case neg => exact ready_exec hs he hreset hinit hbyte

end Sys2Proof.Machine
end
